-- ==== Sys2Proof/Word.lean ====
section
/-! DEFINITION. The two bit-vector types of the block: bytes and one-bit levels (00_scope R6). -/

namespace Sys2Proof

/-- An 8-bit byte, bit 0 least significant (00_scope R6). -/
abbrev Byte := BitVec 8

/-- A one-bit value: a line level (0 low, 1 high), a flag or a data bit. `~~~x` is its complement (00_scope R6). -/
abbrev Bit := BitVec 1

end Sys2Proof
end

