-- ==== Sys2Proof/Syntax.lean ====
section
/-! DEFINITION. The operations of the block, the agents that issue them, the reasons a transaction is refused. -/

namespace Sys2Proof

/-- The agents of 00_scope R8. -/
inductive Agent where
  /-- The single producer execution context: ENQUEUE and STATUS. -/
  | producer
  /-- The preemptive periodic interrupt context: TICK. -/
  | tickSource
  /-- The platform: RESET. -/
  | platform
  deriving DecidableEq, Repr

/-- The four operations (00_scope R1, 30_encoding R71), one constructor per row of spec/opcode_table.json. -/
inductive Instr where
  /-- ENQUEUE (40_transmit_buffer R100). `data` is the payload `data[0..count)`, so `count = data.length`. -/
  | enqueue (data : List Byte)
  /-- STATUS (40_transmit_buffer R105). -/
  | status
  /-- TICK (41_tick_source R122). -/
  | tick
  /-- RESET (70_reset_and_hazards R201). -/
  | reset
  deriving DecidableEq, Repr

/-- Why a transaction is refused (60_exceptions R173). -/
inductive RefusalReason where
  /-- `REFUSED_RESERVED_OP`. -/
  | reservedOp
  /-- `REFUSED_RESERVED_BITS`. -/
  | reservedBits
  /-- `REFUSED_TRUNCATED`. -/
  | truncated
  /-- `REFUSED_WRONG_AGENT`. -/
  | wrongAgent
  deriving DecidableEq, Repr

/-- One transaction, or several in a row, issued by an agent as bytes (30_encoding R70, R76). -/
structure Issue where
  agent : Agent
  bytes : List Byte
  deriving DecidableEq, Repr

end Sys2Proof
end

