-- ==== Sys2Proof/WellFormed.lean ====
section
/-! DEFINITION. Which operations a header can carry. -/

namespace Sys2Proof

/-- ENQUEUE's `count` is the 8-bit field H[15:8], an unsigned number 0..255 (30_encoding R70, R72). The other
operations have no operands. -/
abbrev Instr.WellFormed : Instr → Prop
  | .enqueue data => data.length ≤ 255
  | .status => True
  | .tick => True
  | .reset => True

/-- `Instr.WellFormed` as a Bool. -/
def Instr.wellFormed : Instr → Bool
  | .enqueue data => decide (data.length ≤ 255)
  | .status => true
  | .tick => true
  | .reset => true

end Sys2Proof
end

