-- ==== Sys2Proof/Decode.lean ====
section
/-! DEFINITION. The transaction encoding of 30_encoding: the opcode table, the decoder (total on any bytes,
refusing by name), the encoder, the agent that may issue each operation. -/

namespace Sys2Proof

/-- The bits `v[hi:lo]` with `lo = start` and `len` bits (00_scope R6). -/
def field (h : BitVec 16) (start len : Nat) : BitVec len := h.extractLsb' start len

/-- `op = H[2:0]` (30_encoding R70). -/
def opField (h : BitVec 16) : BitVec 3 := field h 0 3

/-- `rsv = H[7:3]` (30_encoding R70). -/
def rsvField (h : BitVec 16) : BitVec 5 := field h 3 5

/-- `count = H[15:8]` (30_encoding R70). -/
def countField (h : BitVec 16) : BitVec 8 := field h 8 8

/-- The header from its two bytes: byte 0 is H[7:0], byte 1 is H[15:8] (30_encoding R70, R74). -/
def headerOf (byte0 byte1 : Byte) : BitVec 16 := byte1 ++ byte0

/-- R74's decoding of a header and the bytes after it, test by test in R74's order. -/
def decodeHeader (h : BitVec 16) (payload : List Byte) : Except RefusalReason (Instr × Nat) :=
  if opField h = 0b000#3 ∨ opField h = 0b100#3 ∨ opField h = 0b101#3 ∨ opField h = 0b110#3 then
    .error .reservedOp
  else if rsvField h ≠ 0b00000#5 then
    .error .reservedBits
  else if opField h = 0b001#3 then
    if payload.length < (countField h).toNat then .error .truncated
    else .ok (.enqueue (payload.take (countField h).toNat), 2 + (countField h).toNat)
  else if countField h ≠ 0x00#8 then
    .error .reservedBits
  else if opField h = 0b010#3 then .ok (.status, 2)
  else if opField h = 0b011#3 then .ok (.tick, 2)
  else .ok (.reset, 2)

/-- The decoder of 30_encoding R74, total on any byte string: the first transaction of `bytes` and its length in
bytes, or the reason it is refused. -/
def decode (bytes : List Byte) : Except RefusalReason (Instr × Nat) :=
  match bytes with
  | byte0 :: byte1 :: payload => decodeHeader (headerOf byte0 byte1) payload
  | _ => .error .truncated

/-- The agent that may issue an operation (30_encoding R71, R76; 60_exceptions R184). -/
def issuer : Instr → Agent
  | .enqueue _ => .producer
  | .status => .producer
  | .tick => .tickSource
  | .reset => .platform

/-- The operation code of R71. -/
def opCode : Instr → BitVec 3
  | .enqueue _ => 0b001#3
  | .status => 0b010#3
  | .tick => 0b011#3
  | .reset => 0b111#3

/-- The header field H[15:8] of R70: ENQUEUE's count, zero otherwise. -/
def countOf : Instr → BitVec 8
  | .enqueue data => BitVec.ofNat 8 data.length
  | .status => 0x00#8
  | .tick => 0x00#8
  | .reset => 0x00#8

/-- The payload bytes after the header (30_encoding R70). -/
def payloadOf : Instr → List Byte
  | .enqueue data => data
  | .status => []
  | .tick => []
  | .reset => []

/-- The 16-bit header of an operation: `count ++ rsv ++ op` (30_encoding R70). -/
def headerWord (i : Instr) : BitVec 16 := countOf i ++ (0b00000#5 ++ opCode i : BitVec 8)

/-- The header's two bytes as they are carried: H[7:0], then H[15:8] (30_encoding R70). -/
def headerBytes (h : BitVec 16) : List Byte := [h.extractLsb' 0 8, h.extractLsb' 8 8]

/-- The bytes of an operation (30_encoding R70). -/
def encode (i : Instr) : List Byte := headerBytes (headerWord i) ++ payloadOf i

/-- A transaction's length in bytes (30_encoding R70): 2, and `2 + count` for ENQUEUE. -/
def transactionLength (i : Instr) : Nat := 2 + (payloadOf i).length

/-- A row of R75's table: a header belongs to it when `H &&& mask = pattern`. -/
structure OpcodeRow where
  mnemonic : String
  pattern : BitVec 16
  mask : BitVec 16
  deriving DecidableEq, Repr

/-- R75's match and mask per operation. -/
def opcodeTable : List OpcodeRow :=
  [ ⟨"ENQUEUE", 0x0001#16, 0x00FF#16⟩, ⟨"STATUS", 0x0002#16, 0xFFFF#16⟩,
    ⟨"TICK", 0x0003#16, 0xFFFF#16⟩, ⟨"RESET", 0x0007#16, 0xFFFF#16⟩ ]

/-- A header matches a row of R75. -/
def matchesRow (r : OpcodeRow) (h : BitVec 16) : Bool := h &&& r.mask == r.pattern

/-- An operation's mnemonic, as the table spells it. -/
def mnemonicOf : Instr → String
  | .enqueue _ => "ENQUEUE"
  | .status => "STATUS"
  | .tick => "TICK"
  | .reset => "RESET"

/-- The first `k` bytes of the number `w`, least significant first. -/
def bytesOfNat : Nat → Nat → List Byte
  | 0, _ => []
  | k + 1, w => BitVec.ofNat 8 w :: bytesOfNat k (w / 256)

/-- The transaction whose first `nbits` bits are those of `w`, bit 0 the least significant bit of the header's
byte 0, every bit above zero: the header's two bytes and as many payload bytes as H[15:8] names. No transaction
with that header is longer (30_encoding R70). -/
def tableBytes (nbits w : Nat) : List Byte :=
  bytesOfNat (2 + w % 2 ^ nbits / 256 % 256) (w % 2 ^ nbits)

/-- What the decoder reads from an opcode-table word. -/
def decodeTableWord (nbits w : Nat) : Option Instr :=
  match decode (tableBytes nbits w) with
  | .ok (i, _) => some i
  | .error _ => none

end Sys2Proof
end

