-- ==== Sys2Proof/Config.lean ====
section
/-! DEFINITION. The configuration surface of 00_scope R5: the named parameters the model takes, none of which
any operation writes. The functions the rules compute from them (idle level, seed, recorded length) stand in
Machine/Convention.lean. -/

namespace Sys2Proof

/-- The encoding convention, one per build (00_scope R2, R5). -/
inductive Convention where
  | thomas
  | ieee
  deriving DecidableEq, Repr

/-- `BUF_RESET`: what the buffer cells hold after reset (00_scope R5, 92 D13). -/
inductive BufReset where
  | unwritten
  | zero
  deriving DecidableEq, Repr

/-- The timing parameters of 00_scope R5, 41_tick_source R125 and 60_exceptions R188. All are OPEN; no rule of the
block reads one. DESIGN CHOICE (log 28): the spec gives none of them a type; `BAUD` and `F_REF` are whole numbers of
Hz here, `GAP_K` and the first tick's phase rationals. -/
structure Timing where
  /-- `BAUD`, in Hz. -/
  baud : Nat
  /-- `F_REF`, the tick source's reference frequency in Hz. -/
  fRef : Nat
  /-- The tie rule of `TICK_PERIOD`'s rounding: a quotient ending in exactly .5 goes up (true) or down (false). -/
  tieUp : Bool
  /-- `GAP_K`: the inter-packet gap is `GAP_K / BAUD` seconds. -/
  gapK : Rat
  /-- The phase of the first tick after arming, in half bit-periods (93 I8). -/
  firstTickPhase : Rat
  deriving DecidableEq, Repr

/-- The configuration of one build (00_scope R5). -/
structure Config where
  /-- `CONV`. -/
  conv : Convention
  /-- `C`, the transmit buffer's capacity in bytes. -/
  capacity : Nat
  /-- `IDLE_IEEE`, the IEEE convention's idle level. -/
  idleIeee : Bit
  /-- `TRAILING_BYTE`: record `length = count + 1`. -/
  trailingByte : Bool
  /-- `BUF_RESET`. -/
  bufReset : BufReset
  /-- The timing parameters. -/
  timing : Timing
  deriving DecidableEq, Repr

/-- The range 00_scope R5 gives the capacity: `1 <= C <= 255`. -/
abbrev Config.Valid (c : Config) : Prop := 1 ≤ c.capacity ∧ c.capacity ≤ 255

/-- Timing values for `Config.default`. DESIGN CHOICE (log 3): the spec leaves them OPEN; 50000 and 512 are the
only candidates it writes down. Safe: no rule of the block reads them. -/
def Timing.default : Timing :=
  { baud := 50000, fRef := 100000, tieUp := true, gapK := 512, firstTickPhase := 0 }

/-- The build State.reset stands for. DESIGN CHOICE (log 2): `C` and `CONV` are OPEN; these are the values the
spec's test vectors use unless they say otherwise (95), and the defaults of 00_scope R5. Unsafe for a statement
about State.reset alone; the statements of this package hold for every configuration. -/
def Config.default : Config :=
  { conv := .thomas, capacity := 4, idleIeee := 1#1, trailingByte := false, bufReset := .unwritten
    timing := Timing.default }

end Sys2Proof
end

