-- ==== Sys2Proof/Machine/Convention.lean ====
section
/-! DEFINITION. What the rules compute from the configuration: the idle level, the seed of previous_level, the
recorded length, the content of a cell no ENQUEUE has written. -/

namespace Sys2Proof.Machine

open Sys2Proof

/-- `IDLE(CONV)` (00_scope R5): 0 for Thomas, the parameter `IDLE_IEEE` for IEEE. -/
def idleLevel (c : Config) : Bit :=
  match c.conv with
  | .thomas => 0#1
  | .ieee => c.idleIeee

/-- `SEED(CONV)` (00_scope R5, 10_state R28): 0 for Thomas, 1 for IEEE. -/
def seedLevel (c : Config) : Bit :=
  match c.conv with
  | .thomas => 0#1
  | .ieee => 1#1

/-- The length an accepted ENQUEUE of `count` bytes records (40_transmit_buffer R104). -/
def recordedLength (c : Config) (count : Nat) : Nat := count + (if c.trailingByte then 1 else 0)

/-- What a cell that no ENQUEUE has written since reset holds (10_state R21, R36): `none` is UNWRITTEN. -/
def unlistedCell (c : Config) : Option Byte :=
  match c.bufReset with
  | .unwritten => none
  | .zero => some 0x00#8

end Sys2Proof.Machine
end

