-- ==== Sys2Proof/Machine/State.lean ====
section
/-! DEFINITION. The machine's state (10_state R20), the model's own fields beside it, the reasons a step stops,
the state after reset (10_state R36). -/

namespace Sys2Proof.Machine

open Sys2Proof

/-- The phase of the encoder (10_state R27). -/
inductive HalfPhase where
  | clockEdge
  | dataEdge
  deriving DecidableEq, Repr

/-- The fault codes of 60_exceptions R172. -/
inductive FaultCode where
  /-- `FAULT_BUF_OOB`: a DataEdge read with `byte_index >= C` (60_exceptions R175). -/
  | bufOob
  /-- `FAULT_BUF_UNWRITTEN`: a DataEdge read of an UNWRITTEN cell (60_exceptions R176). -/
  | bufUnwritten
  deriving DecidableEq, Repr

/-- An entry of the fault record: the code and the recorded value (60_exceptions R171, R172). -/
structure FaultRecord where
  code : FaultCode
  info : Nat
  deriving DecidableEq, Repr

/-- The buffer's listed cells, as (cell, byte) pairs with strictly rising cells. -/
abbrev Memory := List Host.Cell

/-- The state of 10_state R20 (`buf` to `bitIndex`), the run's bookkeeping of 60_exceptions R171 and R173
(`faultRecord`, `refusalMark`), and the model's own fields (`config`, `response`, `pending`). -/
structure State where
  /-- The configuration of 00_scope R5: an argument of the model, carried along; no operation writes it (log 1). -/
  config : Config
  /-- `buf[0..C)`: the listed cells; an unlisted cell holds `unlistedCell config` (10_state R21). -/
  buf : Memory
  /-- `length` (10_state R22). -/
  length : Nat
  /-- `busy` (10_state R23). -/
  busy : Bit
  /-- `tick_en` (10_state R24). -/
  tickEn : Bit
  /-- `line` (10_state R25). -/
  line : Bit
  /-- `half_phase` (10_state R27). -/
  halfPhase : HalfPhase
  /-- `previous_level`: the previous data bit (10_state R28). -/
  previousLevel : Bit
  /-- `byte_index` (10_state R29). -/
  byteIndex : Nat
  /-- `bit_index` (10_state R30). -/
  bitIndex : BitVec 3
  /-- The fault record (60_exceptions R171). -/
  faultRecord : Option FaultRecord
  /-- The refusal mark (60_exceptions R173). -/
  refusalMark : Option RefusalReason
  /-- What the last operation answered to its issuer (30_encoding R73, log 6). -/
  response : Option Byte
  /-- The transactions issued and not yet taken, oldest first. More may be issued before any step (20_memory R56,
  Machine/Execution.lean, log 7). -/
  pending : List Issue
  deriving DecidableEq, Repr

/-- The reasons a step has no next state. -/
inductive Fault where
  /-- Raised by every operation attempted after fault `r` was recorded: no operation is enabled then
  (60_exceptions R171). Safe: the spec gives such a state no step. -/
  | recorded (r : FaultRecord)
  /-- Raised by a TICK while `tick_en = 0`: the tick source has no step (41_tick_source R121, 60_exceptions R174,
  93 I15 "stuck"). Safe: the spec says such a trace is not a run. -/
  | tickNotEnabled
  deriving DecidableEq, Repr

/-- The reasons an operation has no meaning in the model. A transaction the SPEC refuses is no such reason: it is
a step that sets `refusalMark` (60_exceptions R173, log 5). -/
inductive Refusal where
  /-- Raised by nobody: every operation has its meaning. Safe. -/
  | notModelled (mnemonic : String)
  deriving DecidableEq, Repr

/-- The block after RESET under configuration `c`: every field at the value of 10_state R36. The model's own
fields: no fault, no refusal mark, no response, nothing issued (log 4, 5, 6, 7). -/
def State.resetWith (c : Config) : State :=
  { config := c
    buf := []
    length := 0
    busy := 0#1
    tickEn := 0#1
    line := idleLevel c
    halfPhase := .clockEdge
    previousLevel := seedLevel c
    byteIndex := 0
    bitIndex := 6#3
    faultRecord := none
    refusalMark := none
    response := none
    pending := [] }

/-- The machine right after reset, in the build `Config.default` (log 2). -/
def State.reset : State := State.resetWith Config.default

end Sys2Proof.Machine
end

