-- ==== Sys2Proof/Machine/Ops.lean ====
section
/-! DEFINITION. The named operations over the buffer and the state: reading and writing a cell, answering, raising
a fault, refusing a transaction, taking the next transaction. -/

namespace Sys2Proof.Machine

open Sys2Proof

/-- What cell `a` holds: its listed byte, or what an unlisted cell reads as. -/
def Memory.read (unlisted : Option Byte) : Memory → Nat → Option Byte
  | [], _ => unlisted
  | (k, v) :: m, a => if a = k then some v else Memory.read unlisted m a

/-- Insert an entry before the first entry of a higher cell. -/
def Memory.insertSorted : Memory → Nat → Byte → Memory
  | [], a, v => [(a, v)]
  | (k, w) :: m, a, v => if a < k then (a, v) :: (k, w) :: m else (k, w) :: Memory.insertSorted m a v

/-- Drop cell `a`'s entry. -/
def Memory.erase (m : Memory) (a : Nat) : Memory := m.filter (fun e => e.1 != a)

/-- Set cell `a` to `v`, keeping the canonical form: no entry is listed that equals what an unlisted cell reads as. -/
def Memory.write (unlisted : Option Byte) (m : Memory) (a : Nat) (v : Byte) : Memory :=
  if unlisted = some v then Memory.erase m a else Memory.insertSorted (Memory.erase m a) a v

/-- Set cells `a`, `a + 1`, … to the bytes of a list, in order. -/
def Memory.writeBytes (unlisted : Option Byte) : Memory → Nat → List Byte → Memory
  | m, _, [] => m
  | m, a, v :: vs => Memory.writeBytes unlisted (Memory.write unlisted m a v) (a + 1) vs

/-- The canonical form: cells strictly rising, no entry equal to what an unlisted cell reads as. -/
abbrev Memory.wf (unlisted : Option Byte) (m : Memory) : Prop :=
  (m.map Prod.fst).Pairwise (· < ·) ∧ ∀ e ∈ m, unlisted ≠ some e.2

/-- What `buf[i]` holds, `none` for UNWRITTEN (10_state R21). -/
def cell (s : State) (i : Nat) : Option Byte := Memory.read (unlistedCell s.config) s.buf i

/-- `MemRead(i, 1)` (20_memory R52): out of bounds is tested before unwritten. -/
def memRead (s : State) (i : Nat) : Except FaultRecord Byte :=
  if s.config.capacity ≤ i then .error ⟨.bufOob, i⟩
  else
    match cell s i with
    | none => .error ⟨.bufUnwritten, i⟩
    | some b => .ok b

/-- ENQUEUE's copy loop, `MemWrite(i, 1, data[i])` for `i` in `0..count-1` (20_memory R53, 40_transmit_buffer R100). -/
def storePayload (data : List Byte) (s : State) : State :=
  { s with buf := Memory.writeBytes (unlistedCell s.config) s.buf 0 data }

/-- `respond v`: what the operation returns to its issuer, `none` when it returns nothing (00_scope R7, 30_encoding R73). -/
def respond (v : Option Byte) (s : State) : State := { s with response := v }

/-- `raise F(info)` (00_scope R7, 60_exceptions R171): no field of 10_state R20 is written, the fault is recorded. -/
def raise (r : FaultRecord) (s : State) : State := { s with faultRecord := some r }

/-- A transaction is refused (60_exceptions R173): no field of 10_state R20 is written, the refusal mark is set,
and a mark already set is kept (log 5). Nothing is answered. -/
def refuse (reason : RefusalReason) (s : State) : State :=
  { s with refusalMark := (match s.refusalMark with | some first => some first | none => some reason), response := none }

/-- Once a fault is recorded no operation of any agent is enabled, RESET included (60_exceptions R171). -/
def unlessFaulted (s : State) (k : Host.Outcome State Fault Refusal) : Host.Outcome State Fault Refusal :=
  match s.faultRecord with
  | some r => .fault (.recorded r)
  | none => k

/-- What taking the next issued transaction gives. -/
inductive Fetched where
  /-- Nothing has been issued. -/
  | idle
  /-- A fault is recorded: nothing is enabled. -/
  | quiescent (r : FaultRecord)
  /-- The transaction is refused; the transactions still pending. -/
  | refused (reason : RefusalReason) (rest : List Issue)
  /-- The operation to run; the transactions still pending. -/
  | run (i : Instr) (rest : List Issue)
  deriving DecidableEq, Repr

/-- The transactions still pending after the first `n` bytes of an issue: an agent's bytes past its transaction
are its next one (30_encoding R74: a decoder finds the next transaction from `op` and `count` alone). -/
def pendingAfter (issue : Issue) (n : Nat) (rest : List Issue) : List Issue :=
  match issue.bytes.drop n with
  | [] => rest
  | b :: bs => ⟨issue.agent, b :: bs⟩ :: rest

/-- Take the oldest issued transaction: decode it (30_encoding R74), then check its agent (R76). Of a transaction that
is both malformed and wrongly issued the decoder's reason is recorded and its agent is not looked at: DESIGN CHOICE,
the spec does not order the two reasons (log 26). A transaction that does not decode has no length, so all the bytes
issued with it go (log 5). Neither refusal asks for `tick_en`: a transaction of the tick source's that is no valid TICK
is refused while `tick_en = 0` too, DESIGN CHOICE (log 29). -/
def fetch (s : State) : Fetched :=
  match s.pending with
  | [] => .idle
  | issue :: rest =>
    match s.faultRecord with
    | some r => .quiescent r
    | none =>
      match decode issue.bytes with
      | .error reason => .refused reason rest
      | .ok (i, n) =>
        if issue.agent = issuer i then .run i (pendingAfter issue n rest)
        else .refused .wrongAgent (pendingAfter issue n rest)

/-- The spec's number of a fault code (60_exceptions R172). -/
def faultNumber : FaultCode → Nat
  | .bufOob => 1
  | .bufUnwritten => 2

/-- The spec's number of a refusal reason (60_exceptions R173). -/
def refusalNumber : RefusalReason → Nat
  | .reservedOp => 16
  | .reservedBits => 17
  | .truncated => 18
  | .wrongAgent => 19

end Sys2Proof.Machine
end

