-- ==== Sys2Proof/Machine/Flags.lean ====
section
/-! DEFINITION. The block's two flags, busy and tick_en (10_state R34), set and cleared together, and the STATUS
word (10_state R35). -/

namespace Sys2Proof.Machine

open Sys2Proof

/-- An accepted ENQUEUE takes the buffer and arms the tick source (40_transmit_buffer R102). -/
def arm (s : State) : State := { s with busy := 1#1, tickEn := 1#1 }

/-- The terminal tick disables the tick source and clears `busy` (42_encoder R145). -/
def disarm (s : State) : State := { s with tickEn := 0#1, busy := 0#1 }

/-- The status word `zext_8(line ++ tick_en ++ busy)` (40_transmit_buffer R105, 10_state R35). -/
def statusWord (s : State) : Byte := (s.line ++ (s.tickEn ++ s.busy)).setWidth 8

end Sys2Proof.Machine
end

