-- ==== Sys2Proof/Machine/Operands.lean ====
section
/-! DEFINITION. ENQUEUE's operand check and response codes, the data bit a DataEdge reads, the encoding of half_phase. -/

namespace Sys2Proof.Machine

open Sys2Proof

/-- The counts ENQUEUE accepts: `1..C` (40_transmit_buffer R101). -/
abbrev countLegal (c : Config) (count : Nat) : Prop := 1 ≤ count ∧ count ≤ c.capacity

/-- ENQUEUE's results (30_encoding R73). -/
inductive EnqueueResult where
  | accepted
  | busy
  | badCount
  deriving DecidableEq, Repr

/-- The result code `Q[1:0]` (30_encoding R73). -/
def resultCode : EnqueueResult → BitVec 2
  | .accepted => 0b00#2
  | .busy => 0b01#2
  | .badCount => 0b10#2

/-- The response byte `Q`: the result code with `Q[7:2] = 0` (30_encoding R73). -/
def responseByte (r : EnqueueResult) : Byte := (resultCode r).setWidth 8

/-- The source's Boolean result, `accepted = (Q[1:0] == 00)` (30_encoding R73). -/
def isAccepted (q : Byte) : Bool := q.extractLsb' 0 2 == 0b00#2

/-- `next_bit = (b >> bit_index) & 1` (42_encoder R142). -/
def dataBit (b : Byte) (bitIndex : BitVec 3) : Bit := ((b >>> bitIndex.toNat) &&& 0x01#8).setWidth 1

/-- `ClockEdge = 0`, `DataEdge = 1` (10_state R27). -/
def halfPhaseBit : HalfPhase → Bit
  | .clockEdge => 0#1
  | .dataEdge => 1#1

end Sys2Proof.Machine
end

