-- ==== Sys2Proof/Machine/Encoder.lean ====
section
/-! DEFINITION. The tick source and the encoder state machine: TICK with its ClockEdge and DataEdge steps
(41_tick_source R122, 42_encoder R141 to R145). -/

namespace Sys2Proof.Machine

open Sys2Proof

/-- ClockEdgeStep (42_encoder R141). -/
def clockEdgeStep (s : State) : State := { s with line := ~~~s.line, halfPhase := .dataEdge }

/-- The conditional toggle and the new `previous_level` (42_encoder R143). -/
def toggleIfEqual (nextBit : Bit) (s : State) : State :=
  { s with line := (if nextBit = s.previousLevel then ~~~s.line else s.line), previousLevel := nextBit }

/-- The advance of the cursor (42_encoder R144). -/
def advanceCursor (s : State) : State :=
  if s.bitIndex = 0#3 then { s with bitIndex := 6#3, byteIndex := s.byteIndex + 1 }
  else { s with bitIndex := s.bitIndex - 1#3 }

/-- The terminal transition (42_encoder R145): the line idle, the cursor initial, the tick source disarmed, `busy` cleared. -/
def completePacket (s : State) : State :=
  disarm { s with
    line := idleLevel s.config
    byteIndex := 0
    bitIndex := 6#3
    previousLevel := seedLevel s.config }

/-- The terminal test, on the `byte_index` after the advance, and the phase advance (42_encoder R145). -/
def finishDataEdge (s : State) : State :=
  { (if s.byteIndex = s.length then completePacket s else s) with halfPhase := .clockEdge }

/-- DataEdgeStep (42_encoder R142): the read comes first, and a read that faults raises with no other effect. -/
def dataEdgeStep (s : State) : State :=
  match memRead s s.byteIndex with
  | .error r => raise r s
  | .ok b => finishDataEdge (advanceCursor (toggleIfEqual (dataBit b s.bitIndex) s))

/-- The step `half_phase` selects (41_tick_source R122). -/
def encoderStep (s : State) : State :=
  match s.halfPhase with
  | .clockEdge => clockEdgeStep s
  | .dataEdge => dataEdgeStep s

/-- TICK (41_tick_source R121, R122): enabled exactly while `tick_en = 1` and no fault is recorded; answers nothing. -/
def execTick (s : State) : Host.Outcome State Fault Refusal :=
  unlessFaulted s (
    if s.tickEn = 1#1 then .next (respond none (encoderStep s)) else .fault .tickNotEnabled)

end Sys2Proof.Machine
end

