-- ==== Sys2Proof/Machine/Platform.lean ====
section
/-! DEFINITION. The platform's operation: RESET (70_reset_and_hazards R201). -/

namespace Sys2Proof.Machine

open Sys2Proof

/-- Every field of 10_state R20 to its reset value (70_reset_and_hazards R201, 10_state R36). With nothing listed,
every cell reads UNWRITTEN or 0x00 as `BUF_RESET` says. -/
def resetFields (s : State) : State :=
  { s with
    busy := 0#1
    tickEn := 0#1
    line := idleLevel s.config
    length := 0
    buf := []
    halfPhase := .clockEdge
    previousLevel := seedLevel s.config
    byteIndex := 0
    bitIndex := 6#3 }

/-- RESET (70_reset_and_hazards R201): enabled in every state that is not faulted; clears neither the fault record
nor the refusal mark; answers nothing. -/
def execReset (s : State) : Host.Outcome State Fault Refusal :=
  unlessFaulted s (.next (respond none (resetFields s)))

end Sys2Proof.Machine
end

