-- ==== Sys2Proof/Machine/TransmitBuffer.lean ====
section
/-! DEFINITION. The transmit buffer arbiter: ENQUEUE and STATUS (40_transmit_buffer). -/

namespace Sys2Proof.Machine

open Sys2Proof

/-- The accept path (40_transmit_buffer R100, R102): copy, record the length, drive the line idle, arm. -/
def acceptPacket (data : List Byte) (s : State) : State :=
  arm { storePayload data s with
          length := recordedLength s.config data.length
          line := idleLevel s.config }

/-- ENQUEUE (40_transmit_buffer R100): the bounds test comes before the busy test (R101); a rejection changes no
state of the block (R101, R103). -/
def execEnqueue (data : List Byte) (s : State) : Host.Outcome State Fault Refusal :=
  unlessFaulted s (.next (
    if ¬ countLegal s.config data.length then respond (some (responseByte .badCount)) s
    else if s.busy = 1#1 then respond (some (responseByte .busy)) s
    else respond (some (responseByte .accepted)) (acceptPacket data s)))

/-- STATUS (40_transmit_buffer R105): answers the status word and changes no state of the block. -/
def execStatus (s : State) : Host.Outcome State Fault Refusal :=
  unlessFaulted s (.next (respond (some (statusWord s)) s))

end Sys2Proof.Machine
end

