-- ==== Sys2Proof/Machine/Step.lean ====
section
/-! DEFINITION. One step of the machine: the oldest issued transaction is taken and run as one atomic operation
(20_memory R56). -/

namespace Sys2Proof.Machine

open Sys2Proof

/-- One step. With nothing issued the block waits, unchanged (log 7). -/
def step (s : State) : Host.Outcome State Fault Refusal :=
  match fetch s with
  | .idle => .next s
  | .quiescent r => .fault (.recorded r)
  | .refused reason rest => .next (refuse reason { s with pending := rest })
  | .run i rest => exec i { s with pending := rest }

/-- `s` with the opcode-table word `w` issued ahead of everything else by the agent that may issue it. A TICK can
be issued only by an armed tick source (41_tick_source R121), so issuing one takes `tick_en = 1` (log 9). -/
def State.withFetchWord (s : State) (nbits w : Nat) : State :=
  match decode (tableBytes nbits w) with
  | .ok (i, n) =>
    { s with
      pending := ⟨issuer i, (tableBytes nbits w).take n⟩ :: s.pending
      tickEn := (match i with
        | .tick => 1#1
        | .enqueue _ => s.tickEn
        | .status => s.tickEn
        | .reset => s.tickEn) }
  | .error _ => { s with pending := ⟨.producer, (tableBytes nbits w).take 2⟩ :: s.pending }

end Sys2Proof.Machine
end

