-- ==== Sys2Proof/Machine/Waveform.lean ====
section
/-! DEFINITION. The waveform of a packet (41_tick_source R126), its closed form (42_encoder R148) and the receiver
that reads the bits back (42_encoder R150). -/

namespace Sys2Proof.Machine

open Sys2Proof

/-- `n` TICKs in a row, stopping at the first that is not enabled. -/
def runTicks : Nat → State → Host.Outcome State Fault Refusal
  | 0, s => .next s
  | n + 1, s =>
    match execTick s with
    | .next t => runTicks n t
    | .fault r => .fault r
    | .refused r => .refused r

/-- The line after each of the next `n` TICKs, up to the first that faults or is not enabled (41_tick_source R126). -/
def waveform : Nat → State → List Bit
  | 0, _ => []
  | n + 1, s =>
    match execTick s with
    | .next t => if t.faultRecord = none then t.line :: waveform n t else []
    | .fault _ => []
    | .refused _ => []

/-- `s[k]` of 42_encoder R148 for the bytes `buf[j] = byteAt j`: `s[0]` is the seed; then, for each byte in turn,
bits 6 down to 0. -/
def sentBit (seed : Bit) (byteAt : Nat → Byte) (k : Nat) : Bit :=
  if k = 0 then seed else dataBit (byteAt ((k - 1) / 7)) (BitVec.ofNat 3 (6 - (k - 1) % 7))

/-- `t[k]` of 42_encoder R148: 1 when `s[k] = s[k-1]`. -/
def agreement (seed : Bit) (byteAt : Nat → Byte) (k : Nat) : Nat :=
  if sentBit seed byteAt k = sentBit seed byteAt (k - 1) then 1 else 0

/-- The sum of `t[1..k]`. -/
def agreementSum (seed : Bit) (byteAt : Nat → Byte) : Nat → Nat
  | 0 => 0
  | k + 1 => agreementSum seed byteAt k + agreement seed byteAt (k + 1)

/-- `w[2k-1]` of 42_encoder R148, the line after the k-th ClockEdge. -/
def clockEdgeLevel (idle seed : Bit) (byteAt : Nat → Byte) (k : Nat) : Bit :=
  idle ^^^ BitVec.ofNat 1 ((k + agreementSum seed byteAt (k - 1)) % 2)

/-- `w[2k]` of 42_encoder R148, the line after the k-th DataEdge of `m`: idle on the terminal tick. -/
def dataEdgeLevel (idle seed : Bit) (byteAt : Nat → Byte) (m k : Nat) : Bit :=
  if k = m then idle else idle ^^^ BitVec.ofNat 1 ((k + agreementSum seed byteAt k) % 2)

/-- The receiver of 42_encoder R150: it reads the waveform two levels at a time, a transition between them as
"equal to the bit before", its absence as the complement. -/
def receive : Bit → List Bit → List Bit
  | previous, clock :: data :: rest =>
    (if clock = data then ~~~previous else previous) ::
      receive (if clock = data then ~~~previous else previous) rest
  | _, [_] => []
  | _, [] => []

end Sys2Proof.Machine
end

