-- ==== Sys2Proof/Machine/Assembly.lean ====
section
/-! DEFINITION. The trace lines of 30_encoding R78 and the pseudo-instructions of R79: what each issues, and how it is
written. -/

namespace Sys2Proof.Machine

open Sys2Proof

/-- What a line of a trace says after its prefix (30_encoding R78, R79). -/
inductive LineBody where
  /-- An operation. -/
  | op (i : Instr)
  /-- `TICK n`. -/
  | ticks (n : Nat)
  /-- `DRAIN`. -/
  | drain
  /-- `GAP`. -/
  | gap
  /-- `SEND b0, …`. `interleaved` is the environment's choice, not written in the line: how many TICKs the tick source
  delivers after each STATUS that reads BUSY = 1 (log 24). -/
  | send (interleaved : List Nat) (data : List Byte)
  deriving DecidableEq, Repr

/-- A line of a trace: an optional agent prefix and what follows it (30_encoding R78, R79). -/
structure Line where
  agent : Option Agent
  body : LineBody
  deriving DecidableEq, Repr

/-- The prefix is left out or names `agent`. -/
def Line.prefixAllows (l : Line) (agent : Agent) : Bool := l.agent == none || l.agent == some agent

/-- Which lines can be written: operands as 30_encoding R78 counts them, `n >= 1` in `TICK n` (R79). A DRAIN of
another agent than the tick source and a SEND of another than the producer would be refused for ever, so their
repetition has no end (log 24). -/
def Line.wellFormed (l : Line) : Bool :=
  match l.body with
  | .op i => i.wellFormed
  | .ticks n => decide (1 ≤ n)
  | .drain => l.prefixAllows .tickSource
  | .gap => true
  | .send _ data => decide (data.length ≤ 255) && l.prefixAllows .producer

/-- An operation issued by the agent of its prefix, without one by its legal issuer (30_encoding R78). -/
def issueOf (agent : Option Agent) (i : Instr) : Issue :=
  ⟨(match agent with | some a => a | none => issuer i), encode i⟩

/-- The TICKs left of the packet in flight: `14 * length` from its start (42_encoder R147), none while disarmed. -/
def ticksLeft (s : State) : Nat :=
  if s.tickEn = 1#1 then
    2 * (7 * (s.length - s.byteIndex) - (6 - s.bitIndex.toNat)) -
      (match s.halfPhase with | .clockEdge => 0 | .dataEdge => 1)
  else 0

/-- A status word with BUSY = 1 (10_state R35). -/
def readsBusy (w : Byte) : Bool := w.extractLsb' 0 1 == 1#1

/-- A STATUS from `s` and what follows it: `whenBusy`, from the state after it, if it reads BUSY = 1, `whenIdle` if it
reads BUSY = 0, nothing if it has no next state. -/
def pollThen (s : State) (whenIdle : List Instr) (whenBusy : State → List Instr) : List Instr :=
  .status ::
    (match execStatus s with
    | .next polled => if readsBusy (statusWord s) then whenBusy polled else whenIdle
    | .fault _ => []
    | .refused _ => [])

/-- SEND's operations from `s` (30_encoding R79): STATUS until it reads BUSY = 0, then the ENQUEUE. Of `interleaved`,
one number is used up by each STATUS that reads BUSY = 1. When no number is left, or an operation has no next state,
the operations end as they stand, without the ENQUEUE (log 24). -/
def sendOps (data : List Byte) : List Nat → State → List Instr
  | [], s => pollThen s [.enqueue data] (fun _ => [])
  | n :: rest, s =>
    pollThen s [.enqueue data] fun polled =>
      List.replicate n .tick ++
        (match runTicks n polled with
        | .next t => sendOps data rest t
        | .fault _ => []
        | .refused _ => [])

/-- What a line issues when it starts in `s` (30_encoding R78, R79), `none` for one that cannot be written. A prefix
names the agent of the operation, or of each TICK of `TICK n`; the operations of DRAIN and SEND are their legal
issuers'. -/
def expandLine (s : State) (l : Line) : Option (List Issue) :=
  if l.wellFormed then
    some (match l.body with
      | .op i => [issueOf l.agent i]
      | .ticks n => List.replicate n (issueOf l.agent .tick)
      | .drain => List.replicate (ticksLeft s) (issueOf none .tick)
      | .gap => []
      | .send interleaved data => (sendOps data interleaved s).map (issueOf none))
  else none

/-- The agent prefixes of 30_encoding R78. -/
def agentPrefix : Agent → String
  | .producer => "P: "
  | .tickSource => "T: "
  | .platform => "X: "

/-- A hexadecimal digit. -/
def hexDigit (n : Nat) : String :=
  (["0", "1", "2", "3", "4", "5", "6", "7", "8", "9", "A", "B", "C", "D", "E", "F"] : List String).getD n "0"

/-- A byte as `0x` and two digits. -/
def hexByte (b : Byte) : String := "0x" ++ hexDigit (b.toNat / 16) ++ hexDigit (b.toNat % 16)

/-- A mnemonic and its operands, comma-separated. -/
def withOperands (word : String) (data : List Byte) : String :=
  match data with
  | [] => word
  | b :: bs => word ++ " " ++ hexByte b ++ String.join (bs.map fun x => ", " ++ hexByte x)

/-- An operation as 30_encoding R78 writes it. -/
def operationText : Instr → String
  | .enqueue data => withOperands "ENQ" data
  | .status => "STATUS"
  | .tick => "TICK"
  | .reset => "RESET"

/-- A line without its prefix, as 30_encoding R78 and R79 write it. -/
def bodyText : LineBody → String
  | .op i => operationText i
  | .ticks n => "TICK " ++ toString n
  | .drain => "DRAIN"
  | .gap => "GAP"
  | .send _ data => withOperands "SEND" data

/-- A line as 30_encoding R78 and R79 write it. -/
def lineText (l : Line) : String :=
  match l.agent with
  | some agent => agentPrefix agent ++ bodyText l.body
  | none => bodyText l.body

end Sys2Proof.Machine
end

