-- ==== Sys2Proof/Machine/Timing.lean ====
section
/-! DEFINITION. The timing figures of 41_tick_source R125, 60_exceptions R188 and 70_reset_and_hazards R217. No rule
of the block reads one: the model is untimed (92 D1, D18). -/

namespace Sys2Proof.Machine

open Sys2Proof

/-- The tick rate, `2 * BAUD` Hz (70_reset_and_hazards R217). -/
def tickRate (t : Timing) : Nat := 2 * t.baud

/-- `a / b` rounded to nearest; a tie goes up exactly when `tieUp`. -/
def roundedQuotient (tieUp : Bool) (a b : Nat) : Nat :=
  if b < 2 * (a % b) ∨ (2 * (a % b) = b ∧ tieUp = true) then a / b + 1 else a / b

/-- `TICK_PERIOD = round(F_REF / (2 * BAUD))` reference-clock cycles (41_tick_source R125). -/
def tickPeriod (t : Timing) : Nat := roundedQuotient t.tieUp t.fRef (tickRate t)

/-- One half bit-period, `1 / (2 * BAUD)` seconds (41_tick_source R125). -/
def halfBitSeconds (t : Timing) : Rat := 1 / (2 * (t.baud : Rat))

/-- The ticks of a packet of recorded length `L` (42_encoder R147). -/
def packetTicks (L : Nat) : Nat := 14 * L

/-- A packet's duration from its first tick, `7 * L / BAUD` seconds (70_reset_and_hazards R217). -/
def packetSeconds (t : Timing) (L : Nat) : Rat := 7 * (L : Rat) / (t.baud : Rat)

/-- The inter-packet gap the producer owes, `GAP_K / BAUD` seconds (60_exceptions R188). -/
def gapSeconds (t : Timing) : Rat := t.gapK / (t.baud : Rat)

/-- When tick `k` (from 1) falls after arming, in the timed reading: `k` half bit-periods up to the phase of the
first trigger (41_tick_source R126). -/
def tickSeconds (t : Timing) (k : Nat) : Rat := ((k : Rat) + t.firstTickPhase) * halfBitSeconds t

end Sys2Proof.Machine
end

