-- ==== Sys2Proof/Machine/Execution.lean ====
section
/-! DEFINITION. Executions (20_memory R56): the agents issue transactions before any step, for ever or up to some step,
and the block takes the oldest at each. The sequence of operations is finite or infinite. -/

namespace Sys2Proof.Machine

open Sys2Proof

/-- What the agents issue before each step: the environment's choice (20_memory R56, log 7). -/
abbrev Schedule := Nat → List Issue

/-- `s` with new transactions issued, behind those still pending. -/
def State.issue (s : State) (new : List Issue) : State := { s with pending := s.pending ++ new }

/-- `run` is an execution under `issued`: each state comes from the one before it by a step, once what is issued there
has been issued. A step that takes no transaction leaves the state as it is, so an execution of finitely many operations
waits for ever after the last; one that issues on and on has infinitely many. A transaction that is not enabled when
its turn comes makes the sequence no execution (41_tick_source R121, 60_exceptions R171). -/
def IsExecution (issued : Schedule) (run : Nat → State) : Prop :=
  ∀ k, step ((run k).issue (issued k)) = .next (run (k + 1))

/-- The operation carried out at step `k`; `none` where the block waits or refuses. -/
def operationAt (issued : Schedule) (run : Nat → State) (k : Nat) : Option Instr :=
  match fetch ((run k).issue (issued k)) with
  | .run i _ => some i
  | .idle => none
  | .quiescent _ => none
  | .refused _ _ => none

/-- The issue of an optional operation by its legal issuer. -/
def issueOperation : Option Instr → List Issue
  | some i => [⟨issuer i, encode i⟩]
  | none => []

end Sys2Proof.Machine
end

