-- ==== Sys2Proof/Safety.lean ====
section
/-! DEFINITION. The terms claims use: the invariants of 10_state R31, the start of a packet, the terminal tick, the
end of an execution, a hang, fairness, a run of operations. -/

namespace Sys2Proof.Machine

open Sys2Proof

/-- The cursor at its initial values (10_state R26). -/
structure State.CursorInitial (s : State) : Prop where
  half_phase : s.halfPhase = .clockEdge
  previous_level : s.previousLevel = seedLevel s.config
  byte_index : s.byteIndex = 0
  bit_index : s.bitIndex = 6#3

/-- What 10_state R31 says of every reachable state, with the range of `length` in 10_state R20. -/
structure State.Inv (s : State) : Prop where
  busy_is_armed : s.busy = s.tickEn
  idle_line : s.busy = 0#1 → s.line = idleLevel s.config
  idle_cursor : s.busy = 0#1 → s.CursorInitial
  length_range : s.length ≤ recordedLength s.config s.config.capacity
  flight_length : s.busy = 1#1 → 1 ≤ s.length
  flight_byte_index : s.busy = 1#1 → s.byteIndex < s.length
  bit_index_range : s.bitIndex.toNat ≤ 6

/-- The buffer is in its canonical form and lists no cell outside `0..C-1` (20_memory R50). -/
structure State.BufferForm (s : State) : Prop where
  canonical : Memory.wf (unlistedCell s.config) s.buf
  in_range : ∀ e ∈ s.buf, e.1 < s.config.capacity

/-- Every byte of the packet in flight can be read: cells `0..length-1` exist and are written. -/
def State.PacketReadable (s : State) : Prop :=
  ∀ j, j < s.length → j < s.config.capacity ∧ cell s j ≠ none

/-- While a packet is in flight, every byte ENQUEUE copied can be read: the cells `0..length-1`, the trailing byte
of `TRAILING_BYTE` mode left out (40_transmit_buffer R102, R104). -/
def State.PayloadReadable (s : State) : Prop :=
  s.busy = 1#1 → ∀ j, j + (if s.config.trailingByte then 1 else 0) < s.length →
    j < s.config.capacity ∧ cell s j ≠ none

/-- What holds right after an accepted ENQUEUE (42_encoder R140) when all the packet's bytes can be read. -/
structure State.PacketStart (s : State) : Prop where
  unfaulted : s.faultRecord = none
  owned : s.busy = 1#1
  armed : s.tickEn = 1#1
  line_idle : s.line = idleLevel s.config
  cursor : s.CursorInitial
  nonempty : 1 ≤ s.length
  readable : s.PacketReadable

/-- `byte_index` after the advance of a DataEdge (42_encoder R144). -/
def State.nextByteIndex (s : State) : Nat := if s.bitIndex = 0#3 then s.byteIndex + 1 else s.byteIndex

/-- The next TICK, if it does not fault, is the terminal tick: a DataEdge on which `byte_index` reaches `length`
(42_encoder R145). -/
def State.TerminalTickNext (s : State) : Prop := s.halfPhase = .dataEdge ∧ s.nextByteIndex = s.length

/-- The operations of a list, one after another. -/
def runOps : List Instr → State → Host.Outcome State Fault Refusal
  | [], s => .next s
  | i :: is, s =>
    match exec i s with
    | .next t => runOps is t
    | .fault r => .fault r
    | .refused r => .refused r

/-- What a state shows of a final one (60_exceptions R190): no fault, no refusal mark, not busy, disarmed, nothing of the
producer's pending. A pending RESET does not keep a state from being final: item 4 names only the producer's operations,
DESIGN CHOICE (log 27). That the producer issues nothing more is `EndsAt`'s. -/
def State.Final (s : State) : Prop :=
  s.faultRecord = none ∧ s.refusalMark = none ∧ s.busy = 0#1 ∧ s.tickEn = 0#1 ∧
    ∀ issue ∈ s.pending, issue.agent ≠ .producer

/-- An execution ends at step `k` (60_exceptions R190): its state is final and the producer issues nothing more. -/
def EndsAt (issued : Schedule) (run : Nat → State) (k : Nat) : Prop :=
  (run k).Final ∧ ∀ j, k ≤ j → ∀ issue ∈ issued j, issue.agent ≠ .producer

/-- A state a stalled tick source leaves (60_exceptions R178): armed, unfaulted, nothing of the tick source's pending.
That it issues nothing more is `HangsFrom`'s. -/
def State.Hung (s : State) : Prop :=
  s.faultRecord = none ∧ s.tickEn = 1#1 ∧ ∀ issue ∈ s.pending, issue.agent ≠ .tickSource

/-- An execution hangs from step `k` on (60_exceptions R178, 41_tick_source R127): armed for ever, unfaulted, and no
TICK follows. -/
def HangsFrom (issued : Schedule) (run : Nat → State) (k : Nat) : Prop :=
  ∀ j, k ≤ j → (run j).faultRecord = none ∧ (run j).tickEn = 1#1 ∧ operationAt issued run j ≠ some .tick

/-- Weak fairness of the tick source (41_tick_source R127): where TICK is enabled from some step on, a TICK occurs at
it or later. No rule of the machine rests on it; it is a premise of claims that a packet completes. -/
def TickFair (issued : Schedule) (run : Nat → State) : Prop :=
  ∀ k, (∀ j, k ≤ j → (run j).tickEn = 1#1 ∧ (run j).faultRecord = none) →
    ∃ j, k ≤ j ∧ operationAt issued run j = some .tick

/-- A run is safe in a state when it has neither faulted nor been refused a transaction (60_exceptions R171, R173). -/
def State.Safe (s : State) : Prop := s.faultRecord = none ∧ s.refusalMark = none

/-- Every transaction pending is one well-formed operation issued by the agent that may issue it. -/
def State.WellIssued (s : State) : Prop :=
  ∀ issue ∈ s.pending, ∃ i : Instr, i.WellFormed ∧ issue = ⟨issuer i, encode i⟩

/-- The state an outcome carries. -/
def nextState : Host.Outcome State Fault Refusal → Option State
  | .next s => some s
  | .fault _ => none
  | .refused _ => none

/-- The fields of 10_state R20 agree: what no fault and no refusal may write (60_exceptions R171, R173). -/
structure SameBlock (s t : State) : Prop where
  config : t.config = s.config
  buf : t.buf = s.buf
  length : t.length = s.length
  busy : t.busy = s.busy
  tickEn : t.tickEn = s.tickEn
  line : t.line = s.line
  halfPhase : t.halfPhase = s.halfPhase
  previousLevel : t.previousLevel = s.previousLevel
  byteIndex : t.byteIndex = s.byteIndex
  bitIndex : t.bitIndex = s.bitIndex

/-- The cursor is unchanged (10_state R26). -/
structure SameCursor (s t : State) : Prop where
  halfPhase : t.halfPhase = s.halfPhase
  previousLevel : t.previousLevel = s.previousLevel
  byteIndex : t.byteIndex = s.byteIndex
  bitIndex : t.bitIndex = s.bitIndex

/-- Two states that differ at most in bit 7 of their buffer's bytes (42_encoder R146). -/
structure SameButBitSeven (s t : State) : Prop where
  length : t.length = s.length
  cells : ∀ j, j < s.length → (cell t j).map (fun b => b &&& 0x7F#8) = (cell s j).map (fun b => b &&& 0x7F#8)

end Sys2Proof.Machine
end

