-- ==== Sys2Proof/Certificates/Slice0/Obligations.lean ====
section
/-! DEFINITION. The statements for the provers: what the numbered rules of the spec say the block does. -/

open Sys2Proof Sys2Proof.Machine

/-! ## Encoding -/

/-- R75, R78: headers written out bit by bit from the table, and R78's lines, decode to what they stand for. -/
def Obligations.SampleWordsDecode : Prop :=
  decode [0b00000001#8, 0b00000010#8, 0xC3#8, 0x3C#8] = .ok (.enqueue [0xC3#8, 0x3C#8], 4) ∧
  decode [0b00000010#8, 0b00000000#8] = .ok (.status, 2) ∧
  decode [0b00000011#8, 0b00000000#8] = .ok (.tick, 2) ∧
  decode [0b00000111#8, 0b00000000#8] = .ok (.reset, 2)

/-- R70, R74: a well-formed operation's bytes, whatever follows them, decode to that operation, and the second
component is its length. -/
def Obligations.DecodeOfEncodeIsTheOperation : Prop :=
  ∀ (i : Instr) (rest : List Byte), i.WellFormed →
    decode (encode i ++ rest) = .ok (i, (encode i).length)

/-- R74: an operation the decoder reads is well formed, its length is within the bytes given, and those bytes are
its encoding: no two encodings read as one operation. -/
def Obligations.DecodedBytesAreTheEncoding : Prop :=
  ∀ (bytes : List Byte) (i : Instr) (n : Nat), decode bytes = .ok (i, n) →
    i.WellFormed ∧ n ≤ bytes.length ∧ encode i = bytes.take n

/-- R75: "A header matches at most one row. A header that matches no row is refused": over every header and
payload, what is decoded belongs to the one row its header matches, and a header of no row decodes to nothing. -/
def Obligations.HeaderBelongsToAtMostOneRow : Prop :=
  ∀ (byte0 byte1 : Byte) (payload : List Byte),
    (∀ r₁ ∈ opcodeTable, ∀ r₂ ∈ opcodeTable,
      matchesRow r₁ (headerOf byte0 byte1) = true → matchesRow r₂ (headerOf byte0 byte1) = true → r₁ = r₂) ∧
    ((∀ r ∈ opcodeTable, matchesRow r (headerOf byte0 byte1) = false) →
      ∃ reason, decode (byte0 :: byte1 :: payload) = .error reason) ∧
    (∀ i n, decode (byte0 :: byte1 :: payload) = .ok (i, n) →
      ∃ r ∈ opcodeTable, matchesRow r (headerOf byte0 byte1) = true ∧ r.mnemonic = mnemonicOf i)

/-- R74: "A decoder is total on any byte string", and what it answers, test by test: which byte strings are refused
and with which reason, and what every other one reads as, with its length. -/
def Obligations.DecoderAnswersEveryByteString : Prop :=
  (∀ bytes : List Byte, bytes.length < 2 → decode bytes = .error .truncated) ∧
  (∀ (byte0 byte1 : Byte) (payload : List Byte),
    (byte0.toNat % 8 ∈ [0, 4, 5, 6] → decode (byte0 :: byte1 :: payload) = .error .reservedOp) ∧
    (byte0.toNat % 8 ∉ [0, 4, 5, 6] → byte0.toNat / 8 ≠ 0 →
      decode (byte0 :: byte1 :: payload) = .error .reservedBits) ∧
    (byte0 = 0b00000001#8 → payload.length < byte1.toNat →
      decode (byte0 :: byte1 :: payload) = .error .truncated) ∧
    (byte0 = 0b00000001#8 → byte1.toNat ≤ payload.length →
      decode (byte0 :: byte1 :: payload) = .ok (.enqueue (payload.take byte1.toNat), 2 + byte1.toNat)) ∧
    (byte0 ∈ [0b00000010#8, 0b00000011#8, 0b00000111#8] → byte1 ≠ 0x00#8 →
      decode (byte0 :: byte1 :: payload) = .error .reservedBits) ∧
    (byte0 = 0b00000010#8 → byte1 = 0x00#8 → decode (byte0 :: byte1 :: payload) = .ok (.status, 2)) ∧
    (byte0 = 0b00000011#8 → byte1 = 0x00#8 → decode (byte0 :: byte1 :: payload) = .ok (.tick, 2)) ∧
    (byte0 = 0b00000111#8 → byte1 = 0x00#8 → decode (byte0 :: byte1 :: payload) = .ok (.reset, 2)))

/-! ## Taking a transaction -/

/-- The bytes at the head of the pending transactions decode to `i`, issued by the agent that may issue it, and no
fault is recorded: one step is `exec i` with the transaction's bytes taken off (the pending list is the model's
own, log 7). -/
def Obligations.StepRunsTheDecodedOperation : Prop :=
  ∀ (s : State) (issue : Issue) (rest : List Issue) (i : Instr) (n : Nat),
    s.faultRecord = none → s.pending = issue :: rest → decode issue.bytes = .ok (i, n) → issue.agent = issuer i →
    step s = exec i { s with
      pending := if n < issue.bytes.length then ⟨issue.agent, issue.bytes.drop n⟩ :: rest else rest }

/-- R173: a refused transaction "writes no field. It sets the model's refusal mark with its reason": for bytes that do
not decode, with the decoder's reason, and for an operation of another agent's (R76). The model's choices in it:
the run goes on from a next state (log 5), the oldest pending transaction is the one taken (log 7), and bytes that
do not decode keep the decoder's reason whoever issued them (log 26). A transaction of the tick source's is
refused while `tick_en = 0` as well (log 29, the model's choice). -/
def Obligations.RefusedTransactionOnlySetsTheMark : Prop :=
  ∀ (s : State) (issue : Issue) (rest : List Issue) (reason : RefusalReason),
    s.faultRecord = none → s.refusalMark = none → s.pending = issue :: rest →
    (decode issue.bytes = .error reason ∨
      (reason = .wrongAgent ∧ ∃ i n, decode issue.bytes = .ok (i, n) ∧ issue.agent ≠ issuer i)) →
    ∃ t, step s = .next t ∧ SameBlock s t ∧ t.refusalMark = some reason ∧ t.faultRecord = none

/-- R184: what each agent may issue. A transaction carrying an operation of another agent's is refused with
`REFUSED_WRONG_AGENT` and does not run. That a refusal is a next state and how transactions are pending are the
model's choices (log 5, 7). A transaction of the tick source's is refused while `tick_en = 0` as well (log 29, the
model's choice). -/
def Obligations.AgentIssuesOnlyItsOperations : Prop :=
  ∀ (s : State) (agent : Agent) (i : Instr), i.WellFormed → s.faultRecord = none → s.refusalMark = none →
    s.pending = [⟨agent, encode i⟩] →
    ((agent = .producer ∧ ((∃ data, i = .enqueue data) ∨ i = .status) ∨
        agent = .tickSource ∧ i = .tick ∨ agent = .platform ∧ i = .reset) →
      step s = exec i { s with pending := [] }) ∧
    (¬ (agent = .producer ∧ ((∃ data, i = .enqueue data) ∨ i = .status) ∨
        agent = .tickSource ∧ i = .tick ∨ agent = .platform ∧ i = .reset) →
      ∃ t, step s = .next t ∧ SameBlock s t ∧ t.refusalMark = some .wrongAgent)

/-- R171: "An operation that raises fault `F` with information `info` writes no field of 10_state.md rule R20." After
that no operation of any agent is enabled, RESET included; the record is never cleared; and a faulted state is never
final. The model's choices in it: the record is a field that a next state sets (log 4); a malformed or wrongly issued
transaction pending after a fault is not enabled either (log 22); with nothing pending the block waits (log 7). -/
def Obligations.RecordedFaultStopsTheBlock : Prop :=
  (∀ (s t : State) (i : Instr) (r : FaultRecord), exec i s = .next t → t.faultRecord = some r → SameBlock s t) ∧
  (∀ (s : State) (r : FaultRecord), s.faultRecord = some r →
    (∀ i t, exec i s ≠ .next t) ∧ (s.pending ≠ [] → ∀ t, step s ≠ .next t) ∧
    (∀ t, step s = .next t → t.faultRecord = some r) ∧ ¬ s.Final)

/-- R173: the refusal mark "is kept for the whole run": no step changes it once it is set, RESET included (R201).
That the mark keeps the first of two reasons is the model's choice (log 5). -/
def Obligations.StepKeepsTheRefusalMark : Prop :=
  ∀ (s t : State) (reason : RefusalReason), step s = .next t → s.refusalMark = some reason →
    t.refusalMark = some reason

/-- R5: "A configuration value is not state: no operation writes it." -/
def Obligations.NoStepWritesTheConfiguration : Prop :=
  ∀ s t : State, step s = .next t → t.config = s.config

/-! ## ENQUEUE -/

/-- R101: ENQUEUE "rejects `count = 0` and `count > C`. It responds `BAD_COUNT` and changes no state", busy or not. -/
def Obligations.EnqueueRejectsIllegalCount : Prop :=
  ∀ (s : State) (data : List Byte), s.faultRecord = none →
    (data.length = 0 ∨ s.config.capacity < data.length) →
    exec (.enqueue data) s = .next { s with response := some 0b00000010#8 }

/-- R103: "If `busy` is true, performs no mutation and returns failure": whatever its count, an ENQUEUE while busy
changes nothing but the response, which is not ACCEPTED; with a legal count the response is BUSY. -/
def Obligations.EnqueueWhileBusyAnswersBusy : Prop :=
  ∀ (s : State) (data : List Byte), s.faultRecord = none → s.busy = 1#1 →
    (∃ q, exec (.enqueue data) s = .next { s with response := some q } ∧ isAccepted q = false) ∧
    (1 ≤ data.length → data.length ≤ s.config.capacity →
      exec (.enqueue data) s = .next { s with response := some 0b00000001#8 })

/-- R102, R104: the accept path. Cells `0..count-1` receive the data in order and no other cell is written; the
recorded length is `count`, one more under `TRAILING_BYTE`; `busy` and `tick_en` become 1, the line idle; the
response is ACCEPTED. -/
def Obligations.AcceptedEnqueueHandsOverThePacket : Prop :=
  ∀ (s : State) (data : List Byte), s.faultRecord = none →
    1 ≤ data.length → data.length ≤ s.config.capacity → s.busy = 0#1 →
    ∃ t, exec (.enqueue data) s = .next t ∧
      (∀ i b, data[i]? = some b → cell t i = some b) ∧
      (∀ i, data.length ≤ i → cell t i = cell s i) ∧
      (s.config.trailingByte = false → t.length = data.length) ∧
      (s.config.trailingByte = true → t.length = data.length + 1) ∧
      t.busy = 1#1 ∧ t.tickEn = 1#1 ∧ t.line = idleLevel s.config ∧ t.response = some 0b00000000#8

/-- What ENQUEUE leaves unchanged: the cursor (R26), the configuration, the fault record, the refusal mark, the
transactions pending; every cell it does not store to; and, when it is rejected, everything but the response. -/
def Obligations.EnqueueFrame : Prop :=
  ∀ (s t : State) (data : List Byte), exec (.enqueue data) s = .next t →
    SameCursor s t ∧ t.config = s.config ∧ t.faultRecord = s.faultRecord ∧ t.refusalMark = s.refusalMark ∧
    t.pending = s.pending ∧
    (∀ a, ¬ (1 ≤ data.length ∧ data.length ≤ s.config.capacity ∧ s.busy = 0#1 ∧ a < data.length) →
      cell t a = cell s a) ∧
    (¬ (1 ≤ data.length ∧ data.length ≤ s.config.capacity ∧ s.busy = 0#1) → SameBlock s t)

/-- R62: "an ENQUEUE succeeds if and only if it is issued while `busy = 0` and its count is legal"; succeeding is
answering `Q[1:0] = 00` (R73). R62 marks it as the spec's own inference. -/
def Obligations.EnqueueSucceedsExactlyWhenIdleAndLegal : Prop :=
  ∀ (s t : State) (data : List Byte), exec (.enqueue data) s = .next t →
    ∃ q, t.response = some q ∧
      (isAccepted q = true ↔ s.busy = 0#1 ∧ 1 ≤ data.length ∧ data.length ≤ s.config.capacity)

/-- R73: ENQUEUE answers one byte `Q` with `Q[7:2] = 0` and never the code `11`; STATUS answers a byte; TICK and
RESET answer nothing. The field that holds the answer is the model's (log 6). -/
def Obligations.ResponsesHaveTheirCodes : Prop :=
  ∀ (s t : State) (i : Instr), exec i s = .next t →
    match i with
    | .enqueue _ => ∃ q, t.response = some q ∧ q.extractLsb' 2 6 = 0#6 ∧ q.extractLsb' 0 2 ≠ 0b11#2
    | .status => ∃ q, t.response = some q
    | .tick => t.response = none
    | .reset => t.response = none

/-! ## STATUS -/

/-- R105, R35: STATUS answers bit 0 `busy`, bit 1 `tick_en`, bit 2 `line`, bits 7:3 zero, and changes no state. -/
def Obligations.StatusAnswersTheWordAndChangesNothing : Prop :=
  ∀ s : State, s.faultRecord = none →
    ∃ w : Byte, exec .status s = .next { s with response := some w } ∧
      w.extractLsb' 0 1 = s.busy ∧ w.extractLsb' 1 1 = s.tickEn ∧ w.extractLsb' 2 1 = s.line ∧
      w.extractLsb' 3 5 = 0#5

/-- R108: a STATUS that reads BUSY = 1 and a later one that reads TICK_EN = 0 have a terminal TICK, or a RESET,
between them. R108 marks it as the spec's own inference from R105, R31 and R145; `s.Inv` stands for its "reachable". -/
def Obligations.CompletionIsSeenOnlyAfterTerminalTickOrReset : Prop :=
  ∀ (s s₁ t t₁ : State) (w w₁ : Byte) (ops : List Instr), s.Inv →
    exec .status s = .next s₁ → s₁.response = some w → w.extractLsb' 0 1 = 1#1 →
    runOps ops s₁ = .next t → exec .status t = .next t₁ → t₁.response = some w₁ → w₁.extractLsb' 1 1 = 0#1 →
    ∃ before op after u, ops = before ++ op :: after ∧ runOps before s₁ = .next u ∧
      (op = .reset ∨ (op = .tick ∧ u.TerminalTickNext))

/-! ## TICK -/

/-- R121, R174: TICK is enabled exactly while `tick_en = 1` and no fault is recorded; "ENQUEUE, STATUS and RESET are
enabled in every state that is not faulted". That a TICK whose read faults is answered by a next state, which sets
the record, is the model's choice (log 4). -/
def Obligations.EachOperationIsEnabledWhereItsRuleSays : Prop :=
  ∀ s : State,
    ((∃ t, exec .tick s = .next t) ↔ s.tickEn = 1#1 ∧ s.faultRecord = none) ∧
    (∀ data : List Byte, (∃ t, exec (.enqueue data) s = .next t) ↔ s.faultRecord = none) ∧
    ((∃ t, exec .status s = .next t) ↔ s.faultRecord = none) ∧
    ((∃ t, exec .reset s = .next t) ↔ s.faultRecord = none)

/-- R141: a ClockEdge unconditionally toggles the line and advances to DataEdge; nothing else changes (what TICK
answers is left to another statement). -/
def Obligations.ClockEdgeTogglesTheLine : Prop :=
  ∀ s : State, s.faultRecord = none → s.tickEn = 1#1 → s.halfPhase = .clockEdge →
    ∃ answer, exec .tick s =
      .next { s with line := ~~~s.line, halfPhase := .dataEdge, response := answer }

/-- R143, R144: a DataEdge that does not end the packet toggles the line exactly when the data bit equals the
previous one, stores the data bit, counts `bit_index` down (from 0 to 6 with `byte_index + 1`) and returns to
ClockEdge; nothing else changes. -/
def Obligations.DataEdgeEncodesOneBit : Prop :=
  ∀ (s : State) (b : Byte), s.faultRecord = none → s.tickEn = 1#1 → s.halfPhase = .dataEdge →
    s.byteIndex < s.config.capacity → cell s s.byteIndex = some b → s.nextByteIndex ≠ s.length →
    ∃ answer, exec .tick s = .next { s with
      line := if BitVec.ofBool (b.getLsbD s.bitIndex.toNat) = s.previousLevel then ~~~s.line else s.line
      previousLevel := BitVec.ofBool (b.getLsbD s.bitIndex.toNat)
      bitIndex := if s.bitIndex = 0#3 then 6#3 else BitVec.ofNat 3 (s.bitIndex.toNat - 1)
      byteIndex := if s.bitIndex = 0#3 then s.byteIndex + 1 else s.byteIndex
      halfPhase := .clockEdge
      response := answer }

/-- R145: the terminal tick restores the idle level whatever the data, returns the whole cursor to its initial
values, disables the tick source and clears `busy`; `length` and `buf` are left unchanged. -/
def Obligations.TerminalTickReleasesTheBlock : Prop :=
  ∀ (s : State) (b : Byte), s.faultRecord = none → s.tickEn = 1#1 → s.halfPhase = .dataEdge →
    s.byteIndex < s.config.capacity → cell s s.byteIndex = some b → s.nextByteIndex = s.length →
    ∃ answer, exec .tick s = .next { s with
      line := idleLevel s.config
      previousLevel := seedLevel s.config
      bitIndex := 6#3
      byteIndex := 0
      halfPhase := .clockEdge
      tickEn := 0#1
      busy := 0#1
      response := answer }

/-- R175: a DataEdge read of `buf[byte_index]` with `byte_index >= C` faults: `FAULT_BUF_OOB` is recorded with
`byte_index` and no field of the block is written. In a state with the invariants of R31 that is reached only with
`TRAILING_BYTE = true` and `length = C + 1`. That the faulting TICK is a next state which sets the record is the
model's choice (log 4). -/
def Obligations.DataEdgeReadPastTheBufferFaults : Prop :=
  ∀ s : State, s.faultRecord = none → s.tickEn = 1#1 → s.halfPhase = .dataEdge →
    s.config.capacity ≤ s.byteIndex →
    (∃ t, exec .tick s = .next t ∧ SameBlock s t ∧ t.faultRecord = some ⟨.bufOob, s.byteIndex⟩) ∧
    (s.Inv → s.config.trailingByte = true ∧ s.length = s.config.capacity + 1)

/-- R176: a DataEdge read of a cell that nothing has written since reset faults when `BUF_RESET = unwritten`, with
no field of the block written. With `BUF_RESET = zero` the same cell reads 0x00: the TICK records no fault and
takes 0 as the data bit, keeping it as `previous_level` unless the packet ends. The model's choices in it: the
faulting TICK is a next state which sets the record (log 4), and an unlisted cell stands for one never written
(log 10). -/
def Obligations.DataEdgeReadOfUnwrittenCell : Prop :=
  ∀ s : State, s.faultRecord = none → s.tickEn = 1#1 → s.halfPhase = .dataEdge →
    s.byteIndex < s.config.capacity → (∀ e ∈ s.buf, e.1 ≠ s.byteIndex) →
    (s.config.bufReset = .unwritten →
      ∃ t, exec .tick s = .next t ∧ SameBlock s t ∧ t.faultRecord = some ⟨.bufUnwritten, s.byteIndex⟩) ∧
    (s.config.bufReset = .zero →
      ∃ t, exec .tick s = .next t ∧ t.faultRecord = none ∧
        (s.nextByteIndex ≠ s.length → t.previousLevel = 0#1 ∧
          t.line = (if s.previousLevel = 0#1 then ~~~s.line else s.line)))

/-- R172: "No other operation raises a fault": the operation is a DataEdge TICK, the recorded value is `byte_index`,
code 1 when `byte_index >= C`, code 2 when the cell is UNWRITTEN. That a fault shows as a next state which sets the
record is the model's choice (log 4). -/
def Obligations.OnlyDataEdgeTicksFault : Prop :=
  ∀ (s t : State) (i : Instr) (r : FaultRecord), exec i s = .next t → t.faultRecord = some r →
    i = .tick ∧ s.halfPhase = .dataEdge ∧ r.info = s.byteIndex ∧
    (r.code = .bufOob ↔ s.config.capacity ≤ s.byteIndex) ∧
    (r.code = .bufUnwritten ↔ s.byteIndex < s.config.capacity ∧ cell s s.byteIndex = none) ∧
    (faultNumber r.code = 1 ↔ r.code = .bufOob) ∧ (faultNumber r.code = 2 ↔ r.code = .bufUnwritten)

/-- What TICK leaves unchanged on every path, a recorded fault among them (a next state by log 4, the model's choice):
the buffer's cells, `length`, the configuration, the refusal mark, the pending transactions; `busy` and `tick_en`
unless the tick is terminal; on a ClockEdge the rest of the cursor. -/
def Obligations.TickFrame : Prop :=
  ∀ s t : State, exec .tick s = .next t →
    t.config = s.config ∧ t.length = s.length ∧ (∀ a, cell t a = cell s a) ∧
    t.refusalMark = s.refusalMark ∧ t.pending = s.pending ∧
    (¬ s.TerminalTickNext → t.busy = s.busy ∧ t.tickEn = s.tickEn) ∧
    (s.halfPhase = .clockEdge → t.previousLevel = s.previousLevel ∧ t.byteIndex = s.byteIndex ∧
      t.bitIndex = s.bitIndex ∧ t.faultRecord = s.faultRecord)

/-- R149: the line changes at every ClockEdge; at a DataEdge that is not terminal it changes exactly when the bit
equals the previous bit; at the terminal DataEdge it goes to idle whatever the data, so it changes exactly when it
was not idle, and that agrees with the rule only when `w[2m-1] xor t[m]` is the idle level. R149 marks it as the
spec's own inference from R143, R145 and R148. -/
def Obligations.LineTransitions : Prop :=
  ∀ (s t : State) (b : Byte), exec .tick s = .next t → t.faultRecord = none →
    (s.halfPhase = .clockEdge → t.line ≠ s.line) ∧
    (s.halfPhase = .dataEdge → cell s s.byteIndex = some b → ¬ s.TerminalTickNext →
      (t.line ≠ s.line ↔ BitVec.ofBool (b.getLsbD s.bitIndex.toNat) = s.previousLevel)) ∧
    (s.TerminalTickNext → cell s s.byteIndex = some b →
      t.line = idleLevel s.config ∧ (t.line ≠ s.line ↔ s.line ≠ idleLevel s.config) ∧
      ((t.line ≠ s.line ↔ BitVec.ofBool (b.getLsbD s.bitIndex.toNat) = s.previousLevel) ↔
        s.line ^^^ (if BitVec.ofBool (b.getLsbD s.bitIndex.toNat) = s.previousLevel then 1#1 else 0#1) =
          idleLevel s.config))

/-! ## RESET -/

/-- R201, R36: RESET puts every field into its reset value, from every state that is not faulted; it clears neither
the fault record nor the refusal mark, and leaves the configuration and the pending transactions. -/
def Obligations.ResetGivesEveryFieldItsResetValue : Prop :=
  ∀ s : State, s.faultRecord = none →
    ∃ t, exec .reset s = .next t ∧
      t.busy = 0#1 ∧ t.tickEn = 0#1 ∧ t.length = 0 ∧ t.halfPhase = .clockEdge ∧ t.byteIndex = 0 ∧
      t.bitIndex = 6#3 ∧
      (s.config.conv = .thomas → t.line = 0#1 ∧ t.previousLevel = 0#1) ∧
      (s.config.conv = .ieee → t.line = s.config.idleIeee ∧ t.previousLevel = 1#1) ∧
      (s.config.bufReset = .unwritten → ∀ i, cell t i = none) ∧
      (s.config.bufReset = .zero → ∀ i, cell t i = some 0x00#8) ∧
      t.faultRecord = none ∧ t.refusalMark = s.refusalMark ∧ t.config = s.config ∧ t.pending = s.pending

/-- R202: after a RESET issued while `busy = 1` the producer's STATUS reads TICK_EN = 0 and BUSY = 0. R202 marks it
as the spec's own inference from R201 and R108. -/
def Obligations.ResetDuringPacketLooksLikeCompletion : Prop :=
  ∀ s : State, s.faultRecord = none → s.busy = 1#1 →
    ∃ t u w, exec .reset s = .next t ∧ exec .status t = .next u ∧ u.response = some w ∧
      w.extractLsb' 0 1 = 0#1 ∧ w.extractLsb' 1 1 = 0#1 ∧ u.line = idleLevel s.config

/-! ## The whole machine -/

/-- R123, R124: only an accepted ENQUEUE sets `tick_en` to 1, and only when `busy = 0`; only the terminal TICK, or
RESET, sets it to 0, and no TICK follows it then. R123 and R124 mark parts of it as the spec's own inference. -/
def Obligations.OnlyAcceptedEnqueueArmsAndTerminalTickDisarms : Prop :=
  ∀ (s t : State) (i : Instr), exec i s = .next t →
    (s.tickEn = 0#1 → t.tickEn = 1#1 →
      ∃ data, i = .enqueue data ∧ s.busy = 0#1 ∧ t.response = some 0b00000000#8) ∧
    (s.tickEn = 1#1 → t.tickEn = 0#1 →
      (i = .reset ∨ (i = .tick ∧ s.TerminalTickNext)) ∧ ∀ u, exec .tick t ≠ .next u)

/-- R106: "Only the terminal TICK and a platform RESET return `busy` to 0." -/
def Obligations.AcceptedPacketIsNeverCancelled : Prop :=
  ∀ (s t : State) (i : Instr), exec i s = .next t → s.busy = 1#1 → t.busy = 0#1 →
    i = .reset ∨ (i = .tick ∧ s.TerminalTickNext)

/-- R60: while `busy = 1` nothing but RESET changes the packet's bytes or its length. R60 marks it as the spec's own
inference. -/
def Obligations.OwnedBufferIsNeverMutated : Prop :=
  ∀ (s t : State) (i : Instr), exec i s = .next t → s.busy = 1#1 → i ≠ .reset →
    t.length = s.length ∧ ∀ a, cell t a = cell s a

/-- R26: "No operation of the producer reads or writes any cursor field": the producer's operations leave the
cursor, and change the rest of the state in a way the cursor has no part in. -/
def Obligations.ProducerNeverTouchesTheCursor : Prop :=
  ∀ (s t : State) (i : Instr) (phase : HalfPhase) (level : Bit) (byte : Nat) (bit : BitVec 3),
    ((∃ data, i = .enqueue data) ∨ i = .status) → exec i s = .next t →
    SameCursor s t ∧
    exec i { s with halfPhase := phase, previousLevel := level, byteIndex := byte, bitIndex := bit } =
      .next { t with halfPhase := phase, previousLevel := level, byteIndex := byte, bitIndex := bit }

/-- R178: with the tick source stalled, no operation of the producer ends the hang: `busy` and `tick_en` stay 1 and
every ENQUEUE with a legal count is answered BUSY. R178 marks it as the spec's own inference from R127 and R103. -/
def Obligations.StalledTickSourceHangsBusy : Prop :=
  ∀ (s : State) (ops : List Instr), s.Inv → s.faultRecord = none → s.busy = 1#1 →
    (∀ i ∈ ops, i ≠ .tick ∧ i ≠ .reset) →
    ∃ t, runOps ops s = .next t ∧ t.busy = 1#1 ∧ t.tickEn = 1#1 ∧
      ∀ data : List Byte, 1 ≤ data.length → data.length ≤ s.config.capacity →
        exec (.enqueue data) t = .next { t with response := some 0b00000001#8 }

/-- R178: "The block raises nothing": whatever but a TICK and a RESET is issued to a hung block, it steps to a hung
block. R178 marks it as the spec's own inference. The model's in it: issuing into a list of pending transactions, and
waiting when it is empty (log 7, DESIGN CHOICE); nothing makes the tick source deliver (log 18, DEDUCED). -/
def Obligations.HungBlockStaysHung : Prop :=
  ∀ (s t : State) (new : List Issue), s.Hung → (∀ issue ∈ s.pending, issue.agent ≠ .platform) →
    (∀ issue ∈ new, issue.agent = .producer) → step (s.issue new) = .next t →
    t.Hung ∧ ∀ issue ∈ t.pending, issue.agent ≠ .platform

/-- R190: in a final state with the invariants of R31 the tick source has no step and the line rests at idle with the
cursor initial; with nothing pending the machine stays as it is. That it waits then, and that a final state may have a
RESET pending, are the model's choices (log 7, 27). -/
def Obligations.FinalStateRestsAtIdle : Prop :=
  ∀ s : State, s.Inv → s.Final →
    (s.pending = [] → step s = .next s) ∧ (∀ t, exec .tick s ≠ .next t) ∧ s.line = idleLevel s.config ∧ s.CursorInitial

/-- R56: "An execution is a finite or infinite sequence of operations. The next operation may be any operation that is
enabled in the current state": every finite or infinite sequence of well-formed operations, each enabled where it
comes, is an execution of the machine that carries out exactly those operations. `none` stands for a step at which
nothing is issued. That they run through the list of pending transactions is the model's choice (log 7). -/
def Obligations.EnabledOperationsFormAnExecution : Prop :=
  ∀ (operations : Nat → Option Instr) (run : Nat → State), (run 0).pending = [] →
    (∀ k i, operations k = some i → i.WellFormed ∧ exec i (run k) = .next (run (k + 1))) →
    (∀ k, operations k = none → run (k + 1) = run k) →
    IsExecution (fun k => issueOperation (operations k)) run ∧
      ∀ k, operationAt (fun k => issueOperation (operations k)) run k = operations k

/-- R127: "The model therefore has runs in which `tick_en = 1` forever and no TICK happens", among them one of infinitely
many operations: from every unfaulted armed state with nothing pending, the producer may poll STATUS for ever. Each
poll is issued into the list of pending transactions, the model's choice (log 7); D15 decides that there is no fairness
(log 18). -/
def Obligations.ArmedBlockMayNeverTick : Prop :=
  ∀ s : State, s.faultRecord = none → s.tickEn = 1#1 → s.pending = [] →
    ∃ (issued : Schedule) (run : Nat → State), run 0 = s ∧ IsExecution issued run ∧ HangsFrom issued run 0 ∧
      ∀ k, operationAt issued run k = some .status

/-- R178: in an execution in which, from a hung state on, only the producer issues anything, `tick_en` and `busy` stay 1
for ever with no TICK, nothing is raised, and every ENQUEUE with a legal count is answered BUSY at every later step. R178
marks it as the spec's own inference from R127 and R103. What is pending at the hung state and what is issued after it
are the model's picture of the agents (log 7, 18). -/
def Obligations.StalledTickSourceHangsForever : Prop :=
  ∀ (issued : Schedule) (run : Nat → State) (k : Nat), IsExecution issued run → (run k).Inv → (run k).Hung →
    (∀ issue ∈ (run k).pending, issue.agent ≠ .platform) →
    (∀ j, k ≤ j → ∀ issue ∈ issued j, issue.agent = .producer) →
    HangsFrom issued run k ∧ ∀ j, k ≤ j → (run j).busy = 1#1 ∧
      ∀ data : List Byte, 1 ≤ data.length → data.length ≤ (run j).config.capacity →
        exec (.enqueue data) (run j) = .next { run j with response := some 0b00000001#8 }

/-- R62, R127: under the fairness of the tick source, with `TRAILING_BYTE = false`, an armed block is disarmed again at a
later step of every execution, so that a packet in flight completes or a RESET abandons it. R62 marks it as the spec's
own inference from R147. The execution is the model's (log 7). -/
def Obligations.FairExecutionEndsEveryPacket : Prop :=
  ∀ (issued : Schedule) (run : Nat → State), IsExecution issued run → TickFair issued run →
    (run 0).config.trailingByte = false → (run 0).Inv → (run 0).PayloadReadable → (run 0).faultRecord = none →
    ∀ k, (run k).tickEn = 1#1 → ∃ j, k < j ∧ (run j).tickEn = 0#1 ∧ (run j).busy = 0#1

/-- R190: from the step at which an execution ends on, `busy` and `tick_en` stay 0, the line rests at idle, no fault is
recorded and no operation but RESET is carried out. That a RESET may still come is the model's choice (log 27), and so
is the list of pending transactions (log 7). -/
def Obligations.EndedExecutionStaysIdle : Prop :=
  ∀ (issued : Schedule) (run : Nat → State) (k : Nat), IsExecution issued run → (run k).Inv → EndsAt issued run k →
    ∀ j, k ≤ j → (run j).faultRecord = none ∧ (run j).busy = 0#1 ∧ (run j).tickEn = 0#1 ∧
      (run j).line = idleLevel (run j).config ∧
      (operationAt issued run j = none ∨ operationAt issued run j = some .reset)

/-- The invariants at reset, under every configuration, and for the model's State.reset. -/
def Obligations.ResetStateHasTheInvariants : Prop :=
  (∀ c : Config, (State.resetWith c).Inv ∧ (State.resetWith c).BufferForm ∧ (State.resetWith c).PayloadReadable) ∧
  core.reset.Inv ∧ core.reset.BufferForm ∧ core.reset.PayloadReadable

/-- R31, item by item: what holds "in every state reachable from RESET by the operations of this spec". R31 marks it
as the spec's own inference from R23, R24, R102, R145 and R201. -/
def Obligations.ReachableStatesHaveTheInvariants : Prop :=
  ∀ (c : Config) (ops : List Instr) (s : State), runOps ops (State.resetWith c) = .next s →
    s.busy = s.tickEn ∧
    (s.busy = 0#1 → s.line = idleLevel c ∧ s.halfPhase = .clockEdge ∧ s.previousLevel = seedLevel c ∧
      s.byteIndex = 0 ∧ s.bitIndex = 6#3) ∧
    (s.busy = 1#1 → 1 ≤ s.length ∧ s.length ≤ c.capacity + (if c.trailingByte then 1 else 0) ∧
      s.byteIndex < s.length ∧ s.bitIndex.toNat ≤ 6) ∧
    s.bitIndex ≠ 7#3

/-- R31: the invariants of the reachable states, kept by every step from every state that has them. R31 marks them
as the spec's own inference. -/
def Obligations.StepKeepsTheInvariants : Prop :=
  ∀ s t : State, s.Inv → step s = .next t → t.Inv

/-- The buffer keeps its canonical form and lists no cell outside `0..C-1` (R50), from every state in that form. -/
def Obligations.StepKeepsTheBufferForm : Prop :=
  ∀ s t : State, s.BufferForm → step s = .next t → t.BufferForm

/-- What ENQUEUE copied stays readable while its packet is in flight, in every mode (R102, R104, R60). -/
def Obligations.StepKeepsThePayloadReadable : Prop :=
  ∀ s t : State, s.Inv → s.PayloadReadable → step s = .next t → t.PayloadReadable

/-- R175, R176: "The only way to reach it is `TRAILING_BYTE = true`": a fault is recorded only at the trailing byte,
out of bounds exactly when the buffer is full. That a fault shows as a next state is the model's choice (log 4). -/
def Obligations.OnlyTheTrailingByteFaults : Prop :=
  ∀ (s t : State) (i : Instr) (r : FaultRecord), s.Inv → s.PayloadReadable → exec i s = .next t →
    t.faultRecord = some r →
    s.config.trailingByte = true ∧ r.info + 1 = s.length ∧
    (r.code = .bufOob ↔ s.length = s.config.capacity + 1)

/-- R142: "Under `TRAILING_BYTE = false` with a legal count, the read never faults": a run of well-formed
operations, each issued by the agent that may issue it, records no fault and sets no refusal mark, step after step.
R142 marks it as the spec's own inference. Which transactions are pending is the model's (log 7). -/
def Obligations.WellIssuedExactCountRunsStaySafe : Prop :=
  ∀ s t : State, s.config.trailingByte = false → s.Inv → s.PayloadReadable → s.WellIssued → s.Safe →
    step s = .next t → t.Safe ∧ t.WellIssued ∧ t.config.trailingByte = false ∧ t.Inv ∧ t.PayloadReadable

/-! ## Packets -/

/-- R140: an accepted ENQUEUE from a state with the invariants leaves the block at the start of a packet. R140 marks
it as the spec's own inference. -/
def Obligations.AcceptedEnqueueStartsAPacket : Prop :=
  ∀ (s : State) (data : List Byte), s.config.trailingByte = false → s.Inv → s.faultRecord = none → s.busy = 0#1 →
    1 ≤ data.length → data.length ≤ s.config.capacity →
    ∃ t, exec (.enqueue data) s = .next t ∧ t.PacketStart ∧ t.length = data.length

/-- R147: a packet of recorded length `L` takes exactly `14 * L` TICKs, ClockEdges and DataEdges in turn, and the
last of them is the terminal tick. R147 marks it as the spec's own inference from R141, R144 and R145. -/
def Obligations.PacketTakesFourteenTicksPerByte : Prop :=
  ∀ s : State, s.PacketStart →
    (∀ k, k < 14 * s.length → ∃ u, runTicks k s = .next u ∧ u.busy = 1#1 ∧ u.tickEn = 1#1 ∧
      u.faultRecord = none ∧ u.halfPhase = (if k % 2 = 0 then .clockEdge else .dataEdge) ∧
      (u.TerminalTickNext ↔ k + 1 = 14 * s.length)) ∧
    ∃ u, runTicks (14 * s.length) s = .next u ∧ u.busy = 0#1 ∧ u.tickEn = 0#1 ∧ u.faultRecord = none ∧
      u.line = idleLevel s.config ∧ u.CursorInitial

/-- R79: DRAIN "expands to exactly `14 * length` TICKs after an accepted ENQUEUE", and from any point of a packet to
exactly the TICKs that end it. R79 marks the count as the spec's own inference; the count from mid-packet is the
model's (log 24). -/
def Obligations.DrainEndsThePacketInFlight : Prop :=
  ∀ s : State, s.Inv → s.faultRecord = none → s.busy = 1#1 → s.PacketReadable →
    (s.CursorInitial → ticksLeft s = 14 * s.length) ∧
    expandLine s ⟨none, .drain⟩ = some (List.replicate (ticksLeft s) ⟨.tickSource, [0x03#8, 0x00#8]⟩) ∧
    (∀ k, k < ticksLeft s → ∃ u, runTicks k s = .next u ∧ u.busy = 1#1) ∧
    ∃ u, runTicks (ticksLeft s) s = .next u ∧ u.busy = 0#1 ∧ u.faultRecord = none

/-- R79's `TICK n` and GAP, under any prefix, and the lines that cannot be written: `TICK n` is `n` TICKs of the
prefix's agent and needs `n >= 1`; GAP issues nothing. That DRAIN and SEND under the prefix of an agent that may not
issue them have no expansion is the model's choice (log 24). -/
def Obligations.PseudoLinesExpandAsTheTableSays : Prop :=
  ∀ (s : State) (agent : Agent) (n : Nat) (data : List Byte) (interleaved : List Nat),
    expandLine s ⟨none, .ticks (n + 1)⟩ = some (List.replicate (n + 1) ⟨.tickSource, [0x03#8, 0x00#8]⟩) ∧
    expandLine s ⟨some agent, .ticks (n + 1)⟩ = some (List.replicate (n + 1) ⟨agent, [0x03#8, 0x00#8]⟩) ∧
    expandLine s ⟨none, .ticks 0⟩ = none ∧ expandLine s ⟨some agent, .ticks 0⟩ = none ∧
    expandLine s ⟨none, .gap⟩ = some [] ∧ expandLine s ⟨some agent, .gap⟩ = some [] ∧
    (agent ≠ .tickSource → expandLine s ⟨some agent, .drain⟩ = none) ∧
    expandLine s ⟨some .tickSource, .drain⟩ = expandLine s ⟨none, .drain⟩ ∧
    (agent ≠ .producer → expandLine s ⟨some agent, .send interleaved data⟩ = none) ∧
    (data.length ≤ 255 →
      expandLine s ⟨some .producer, .send interleaved data⟩ = expandLine s ⟨none, .send interleaved data⟩ ∧
      expandLine s ⟨none, .send interleaved data⟩ = some ((sendOps data interleaved s).map (issueOf none)))

/-- R79: SEND is "`STATUS` repeated until `BUSY = 0`, then" the ENQUEUE, with TICKs between. Its first operation is a
STATUS. A STATUS issued while `busy = 0` is followed by the ENQUEUE and by nothing more. A STATUS issued while
`busy = 1` is followed by exactly as many TICKs as `interleaved` gives for it and then, if they have a next state, by
another STATUS; when `interleaved` gives no number, by nothing. The ENQUEUE comes last, directly after a STATUS issued
while `busy = 0`. How the TICKs fall between the polls, and that the operations end where those run out or where a
fault is recorded, are the model's choices (log 24). -/
def Obligations.SendPollsUntilStatusReadsIdle : Prop :=
  ∀ (s : State) (interleaved : List Nat) (data : List Byte),
    (∃ rest, sendOps data interleaved s = .status :: rest) ∧
    ∀ (before after : List Instr) (op : Instr) (u : State),
      sendOps data interleaved s = before ++ op :: after → runOps before s = .next u →
      (op = .status ∧ u.faultRecord ≠ none ∧ after = []) ∨
      (op = .status ∧ u.faultRecord = none ∧ u.busy = 0#1 ∧ after = [.enqueue data]) ∨
      (op = .status ∧ u.faultRecord = none ∧ u.busy = 1#1 ∧
        match interleaved[before.count .status]? with
        | none => after = []
        | some n => ∃ tail, after = List.replicate n .tick ++ tail ∧
            (∀ v, runOps (before ++ .status :: List.replicate n .tick) s = .next v → ∃ rest, tail = .status :: rest) ∧
            ((∀ v, runOps (before ++ .status :: List.replicate n .tick) s ≠ .next v) → tail = [])) ∨
      op = .tick ∨
      (op = .enqueue data ∧ u.busy = 0#1 ∧ after = [] ∧
        ∃ earlier w, before = earlier ++ [.status] ∧ runOps earlier s = .next w ∧ w.busy = 0#1)

/-- R79, R102: a SEND with a legal count, begun while a packet is in flight and with its last TICKs falling between
the polls, waits the packet out and hands its own over. How the TICKs fall is an argument of the model's (log 24). -/
def Obligations.SendWaitsOutThePacketInFlight : Prop :=
  ∀ (s : State) (interleaved : List Nat) (data : List Byte), s.Inv → s.faultRecord = none → s.busy = 1#1 →
    s.PacketReadable → 1 ≤ data.length → data.length ≤ s.config.capacity →
    interleaved.sum = ticksLeft s →
    ∃ t, runOps (sendOps data interleaved s) s = .next t ∧ t.response = some 0b00000000#8 ∧
      t.length = recordedLength s.config data.length ∧ t.busy = 1#1 ∧ t.byteIndex = 0 ∧
      ∀ i b, data[i]? = some b → cell t i = some b

/-- R148: the waveform of a packet whose bytes are `byteAt 0`, `byteAt 1`, … is the closed form: `w[2k-1]` after the
k-th ClockEdge and `w[2k]` after the k-th DataEdge. R148 marks it as the spec's own inference from R141 to R145. -/
def Obligations.WaveformHasTheClosedForm : Prop :=
  ∀ (s : State) (byteAt : Nat → Byte), s.PacketStart → (∀ j, j < s.length → cell s j = some (byteAt j)) →
    (waveform (14 * s.length) s).length = 14 * s.length ∧
    ∀ k, 1 ≤ k → k ≤ 7 * s.length →
      (waveform (14 * s.length) s)[2 * k - 2]? =
        some (clockEdgeLevel (idleLevel s.config) (seedLevel s.config) byteAt k) ∧
      (waveform (14 * s.length) s)[2 * k - 1]? =
        some (dataEdgeLevel (idleLevel s.config) (seedLevel s.config) byteAt (7 * s.length) k)

/-- R146: "Two payloads that differ only in bit 7 of some bytes give identical waveforms." R146 marks it as the
spec's own inference from R142, R144 and R31. -/
def Obligations.BitSevenIsNeverSent : Prop :=
  ∀ (s t : State) (n : Nat), s.PacketStart → t.PacketStart → t.config = s.config → SameButBitSeven s t →
    waveform n t = waveform n s

/-- R150: the receiver that knows the seed recovers `s[1..m-1]` exactly, and `s[m]` exactly when `w[2m-1] xor t[m]`
is the idle level. R150 marks it as the spec's own inference from R146, R148 and R149. -/
def Obligations.ReceiverRecoversAllButPerhapsTheLastBit : Prop :=
  ∀ (s : State) (byteAt : Nat → Byte), s.PacketStart → (∀ j, j < s.length → cell s j = some (byteAt j)) →
    (receive (seedLevel s.config) (waveform (14 * s.length) s)).length = 7 * s.length ∧
    (∀ k, 1 ≤ k → k < 7 * s.length →
      (receive (seedLevel s.config) (waveform (14 * s.length) s))[k - 1]? =
        some (sentBit (seedLevel s.config) byteAt k)) ∧
    ((receive (seedLevel s.config) (waveform (14 * s.length) s))[7 * s.length - 1]? =
        some (sentBit (seedLevel s.config) byteAt (7 * s.length)) ↔
      clockEdgeLevel (idleLevel s.config) (seedLevel s.config) byteAt (7 * s.length) ^^^
        BitVec.ofNat 1 (agreement (seedLevel s.config) byteAt (7 * s.length)) = idleLevel s.config)

/-! ## Timing figures -/

/-- R125: `TICK_PERIOD` is `F_REF / (2 * BAUD)` rounded to nearest: it is off by at most half a cycle, and a tie goes
the way the open parameter says. That `BAUD` and `F_REF` are whole numbers of Hz is the model's choice (log 28). -/
def Obligations.TickPeriodIsTheNearestInteger : Prop :=
  ∀ p : Timing, 0 < p.baud →
    2 * p.fRef ≤ (2 * tickPeriod p + 1) * (2 * p.baud) ∧ (2 * tickPeriod p) * (2 * p.baud) ≤ 2 * p.fRef + 2 * p.baud ∧
    (∀ q, 2 * p.fRef = (2 * q + 1) * (2 * p.baud) → tickPeriod p = if p.tieUp = true then q + 1 else q)
end

