-- ==== Sys2Proof/Laws/Assembly.lean ====
section
/-! SUPPORT. Lemmas of the pseudo-instructions: what a STATUS read says of `busy`, running operations in pieces, the
two ways SEND goes on after a STATUS. -/

namespace Sys2Proof.Machine

open Sys2Proof

/-- A status word reads BUSY = 1 exactly while `busy = 1`. -/
@[simp] theorem readsBusy_statusWord (s : State) : readsBusy (statusWord s) = (s.busy == 1#1) := by
  have key : ∀ l e b : Bit, readsBusy ((l ++ (e ++ b)).setWidth 8) = (b == 1#1) := by decide
  exact key s.line s.tickEn s.busy

/-- Running a list of operations in two pieces. -/
theorem runOps_append (before after : List Instr) (s : State) :
    runOps (before ++ after) s =
      match runOps before s with
      | .next t => runOps after t
      | .fault r => .fault r
      | .refused r => .refused r := by
  induction before generalizing s with
  | nil => rfl
  | cons i is ih =>
    simp only [List.cons_append, runOps]
    cases exec i s with
    | next t => exact ih t
    | fault r => rfl
    | refused r => rfl

/-- A run of TICKs is a run of operations. -/
theorem runOps_replicate_tick (n : Nat) (s : State) : runOps (List.replicate n .tick) s = runTicks n s := by
  induction n generalizing s with
  | zero => rfl
  | succ n ih =>
    simp only [List.replicate_succ, runOps, runTicks, exec]
    cases execTick s with
    | next t => exact ih t
    | fault r => rfl
    | refused r => rfl

/-- A STATUS that is not enabled is followed by nothing. -/
theorem pollThen_of_faulted {s : State} {r : FaultRecord} (whenIdle : List Instr) (whenBusy : State → List Instr)
    (hf : s.faultRecord = some r) : pollThen s whenIdle whenBusy = [.status] := by
  simp [pollThen, execStatus, unlessFaulted, hf]

/-- An enabled STATUS is followed as `busy` says. -/
theorem pollThen_of_unfaulted {s : State} (whenIdle : List Instr) (whenBusy : State → List Instr)
    (hf : s.faultRecord = none) :
    pollThen s whenIdle whenBusy =
      .status :: (if s.busy = 1#1 then whenBusy (respond (some (statusWord s)) s) else whenIdle) := by
  simp [pollThen, execStatus, unlessFaulted, hf]

/-- SEND at a STATUS that is not enabled. -/
theorem sendOps_of_faulted {s : State} {r : FaultRecord} (data : List Byte) (interleaved : List Nat)
    (hf : s.faultRecord = some r) : sendOps data interleaved s = [.status] := by
  cases interleaved <;> exact pollThen_of_faulted _ _ hf

/-- SEND at a STATUS that reads BUSY = 0. -/
theorem sendOps_of_idle {s : State} (data : List Byte) (interleaved : List Nat) (hf : s.faultRecord = none)
    (h : s.busy = 0#1) : sendOps data interleaved s = [.status, .enqueue data] := by
  cases interleaved <;> simp [sendOps, pollThen_of_unfaulted _ _ hf, h]

/-- SEND at a STATUS that reads BUSY = 1, with no TICKs to come. -/
theorem sendOps_of_stalled {s : State} (data : List Byte) (hf : s.faultRecord = none) (h : s.busy = 1#1) :
    sendOps data [] s = [.status] := by
  simp [sendOps, pollThen_of_unfaulted _ _ hf, h]

/-- SEND at a STATUS that reads BUSY = 1, with TICKs to come. -/
theorem sendOps_of_busy {s : State} (data : List Byte) (n : Nat) (rest : List Nat) (hf : s.faultRecord = none)
    (h : s.busy = 1#1) :
    sendOps data (n :: rest) s =
      .status :: (List.replicate n .tick ++
        (match runTicks n (respond (some (statusWord s)) s) with
        | .next t => sendOps data rest t
        | .fault _ => []
        | .refused _ => [])) :=
  (pollThen_of_unfaulted _ _ hf).trans (congrArg (List.cons _) (if_pos h))

end Sys2Proof.Machine
end

