-- ==== Sys2Proof/Laws/Decode.lean ====
section
/-! SUPPORT. The header's fields from its two bytes, and an encoded operation's bytes. -/

namespace Sys2Proof

theorem headerOf_getLsbD (byte0 byte1 : Byte) (i : Nat) :
    (headerOf byte0 byte1).getLsbD i = if i < 8 then byte0.getLsbD i else byte1.getLsbD (i - 8) := by
  have h := BitVec.getLsbD_append (x := byte1) (y := byte0) (i := i)
  simpa [headerOf] using h

@[simp] theorem opField_headerOf (byte0 byte1 : Byte) : opField (headerOf byte0 byte1) = byte0.extractLsb' 0 3 := by
  apply BitVec.eq_of_getLsbD_eq
  intro i hi
  simp [opField, field, headerOf_getLsbD, hi, show i < 8 by omega]

@[simp] theorem rsvField_headerOf (byte0 byte1 : Byte) : rsvField (headerOf byte0 byte1) = byte0.extractLsb' 3 5 := by
  apply BitVec.eq_of_getLsbD_eq
  intro i hi
  simp [rsvField, field, headerOf_getLsbD, hi, show 3 + i < 8 by omega]

@[simp] theorem countField_headerOf (byte0 byte1 : Byte) : countField (headerOf byte0 byte1) = byte1 := by
  apply BitVec.eq_of_getLsbD_eq
  intro i hi
  simp [countField, field, headerOf_getLsbD, hi]

/-- An ENQUEUE's bytes: 01, its count, its payload (30_encoding R78). -/
theorem encode_enqueue (data : List Byte) :
    encode (.enqueue data) = 0x01#8 :: BitVec.ofNat 8 data.length :: data := by
  have h : ∀ c : BitVec 8, headerBytes (c ++ (0b00000#5 ++ 0b001#3 : BitVec 8)) = [0x01#8, c] := by decide
  show headerBytes _ ++ data = _
  rw [headerWord, show opCode (.enqueue data) = 0b001#3 from rfl, h]
  rfl

@[simp] theorem encode_status : encode .status = [0x02#8, 0x00#8] := rfl

@[simp] theorem encode_tick : encode .tick = [0x03#8, 0x00#8] := rfl

@[simp] theorem encode_reset : encode .reset = [0x07#8, 0x00#8] := rfl

/-- The Bool check of well-formedness says what the Prop says. -/
theorem wellFormed_iff (i : Instr) : i.wellFormed = true ↔ i.WellFormed := by
  cases i <;> simp [Instr.wellFormed, Instr.WellFormed]

end Sys2Proof
end

