-- ==== Sys2Proof/Laws/Memory.lean ====
section
/-! SUPPORT. The laws of the buffer's memory: a read after a write, other cells untouched, the canonical form kept. -/

namespace Sys2Proof.Machine

open Sys2Proof

@[simp] theorem Memory.read_nil (u : Option Byte) (a : Nat) : Memory.read u [] a = u := rfl

theorem Memory.read_insertSorted_same (u : Option Byte) (m : Memory) (a : Nat) (v : Byte)
    (absent : ∀ e ∈ m, e.1 ≠ a) : Memory.read u (Memory.insertSorted m a v) a = some v := by
  induction m with
  | nil => simp [Memory.insertSorted, Memory.read]
  | cons e m ih =>
    obtain ⟨k, w⟩ := e
    have hk : k ≠ a := absent (k, w) (by simp)
    by_cases h : a < k
    · simp [Memory.insertSorted, Memory.read, h]
    · simp [Memory.insertSorted, Memory.read, h, Ne.symm hk, ih fun e he => absent e (by simp [he])]

theorem Memory.read_insertSorted_other (u : Option Byte) (m : Memory) (a b : Nat) (v : Byte) (hb : b ≠ a) :
    Memory.read u (Memory.insertSorted m a v) b = Memory.read u m b := by
  induction m with
  | nil => simp [Memory.insertSorted, Memory.read, hb]
  | cons e m ih =>
    obtain ⟨k, w⟩ := e
    by_cases h : a < k
    · simp [Memory.insertSorted, Memory.read, h, hb]
    · simp [Memory.insertSorted, Memory.read, h, ih]

theorem Memory.read_absent (u : Option Byte) (m : Memory) (a : Nat) (absent : ∀ e ∈ m, e.1 ≠ a) :
    Memory.read u m a = u := by
  induction m with
  | nil => rfl
  | cons e m ih =>
    obtain ⟨k, w⟩ := e
    have hk : k ≠ a := absent (k, w) (by simp)
    simp [Memory.read, Ne.symm hk, ih fun e he => absent e (by simp [he])]

theorem Memory.mem_erase {m : Memory} {a : Nat} {e : Host.Cell} : e ∈ Memory.erase m a ↔ e ∈ m ∧ e.1 ≠ a := by
  simp [Memory.erase]

theorem Memory.read_erase_same (u : Option Byte) (m : Memory) (a : Nat) : Memory.read u (Memory.erase m a) a = u :=
  Memory.read_absent u _ a fun _ he => (Memory.mem_erase.mp he).2

theorem Memory.read_erase_other (u : Option Byte) (m : Memory) (a b : Nat) (hb : b ≠ a) :
    Memory.read u (Memory.erase m a) b = Memory.read u m b := by
  induction m with
  | nil => rfl
  | cons e m ih =>
    obtain ⟨k, w⟩ := e
    rw [Memory.erase] at ih ⊢
    by_cases h : k = a
    · subst h
      simp [Memory.read, ih, hb]
    · simp [Memory.read, h, ih]

/-- A read after a write to the same cell gives the value written. -/
@[simp] theorem Memory.read_write_same (u : Option Byte) (m : Memory) (a : Nat) (v : Byte) :
    Memory.read u (Memory.write u m a v) a = some v := by
  rw [Memory.write]
  split
  · rename_i h
    rw [Memory.read_erase_same, h]
  · exact Memory.read_insertSorted_same u _ a v fun _ he => (Memory.mem_erase.mp he).2

/-- A write leaves every other cell alone. -/
theorem Memory.read_write_other (u : Option Byte) (m : Memory) (a b : Nat) (v : Byte) (hb : b ≠ a) :
    Memory.read u (Memory.write u m a v) b = Memory.read u m b := by
  rw [Memory.write]
  split
  · exact Memory.read_erase_other u m a b hb
  · rw [Memory.read_insertSorted_other u _ a b v hb, Memory.read_erase_other u m a b hb]

/-- A cell below the first one written, or past the last, is untouched. -/
theorem Memory.read_writeBytes_outside (u : Option Byte) (vs : List Byte) (m : Memory) (a b : Nat)
    (hb : b < a ∨ a + vs.length ≤ b) : Memory.read u (Memory.writeBytes u m a vs) b = Memory.read u m b := by
  induction vs generalizing m a with
  | nil => rfl
  | cons v vs ih =>
    simp only [List.length_cons] at hb
    rw [Memory.writeBytes, ih _ _ (by omega), Memory.read_write_other u m a b v (by omega)]

/-- Cell `a + i` receives byte `i` of the list. -/
theorem Memory.read_writeBytes_inside (u : Option Byte) (vs : List Byte) (m : Memory) (a i : Nat) (v : Byte)
    (h : vs[i]? = some v) : Memory.read u (Memory.writeBytes u m a vs) (a + i) = some v := by
  induction vs generalizing m a i with
  | nil => simp at h
  | cons w vs ih =>
    rw [Memory.writeBytes]
    cases i with
    | zero =>
      rw [Memory.read_writeBytes_outside u vs _ _ _ (by omega)]
      simpa using h
    | succ i => simpa [Nat.add_assoc, Nat.add_comm 1] using ih (Memory.write u m a w) (a + 1) i (by simpa using h)

theorem Memory.mem_insertSorted {m : Memory} {a : Nat} {v : Byte} {e : Host.Cell} :
    e ∈ Memory.insertSorted m a v ↔ e = (a, v) ∨ e ∈ m := by
  induction m with
  | nil => simp [Memory.insertSorted]
  | cons x m ih =>
    obtain ⟨k, w⟩ := x
    by_cases h : a < k
    · simp [Memory.insertSorted, h]
    · simp only [Memory.insertSorted, h, if_false, List.mem_cons, ih]
      tauto

theorem Memory.wf_erase {u : Option Byte} {m : Memory} (a : Nat) (h : Memory.wf u m) :
    Memory.wf u (Memory.erase m a) := by
  refine ⟨h.1.sublist (List.Sublist.map _ List.filter_sublist), fun e he => h.2 e (Memory.mem_erase.mp he).1⟩

theorem Memory.wf_insertSorted {u : Option Byte} {m : Memory} {a : Nat} {v : Byte} (h : Memory.wf u m)
    (absent : ∀ e ∈ m, e.1 ≠ a) (hv : u ≠ some v) : Memory.wf u (Memory.insertSorted m a v) := by
  constructor
  · induction m with
    | nil => simp [Memory.insertSorted]
    | cons x m ih =>
      obtain ⟨k, w⟩ := x
      have hk : k ≠ a := absent (k, w) (by simp)
      obtain ⟨hs, hu⟩ := h
      simp only [List.map_cons, List.pairwise_cons] at hs
      by_cases hak : a < k
      · simp only [Memory.insertSorted, hak, if_true, List.map_cons, List.pairwise_cons]
        refine ⟨?_, hs⟩
        rintro b hb
        rcases List.mem_cons.mp hb with rfl | hb
        · exact hak
        · exact lt_trans hak (hs.1 b hb)
      · simp only [Memory.insertSorted, hak, if_false, List.map_cons, List.pairwise_cons]
        refine ⟨?_, ih ⟨hs.2, fun e he => hu e (by simp [he])⟩ fun e he => absent e (by simp [he])⟩
        intro b hb
        obtain ⟨e, he, rfl⟩ := List.mem_map.mp hb
        rcases Memory.mem_insertSorted.mp he with rfl | he
        · show k < a
          omega
        · exact hs.1 _ (List.mem_map_of_mem he)
  · intro e he
    rcases Memory.mem_insertSorted.mp he with rfl | he
    · exact hv
    · exact h.2 e he

/-- A write keeps the canonical form. -/
theorem Memory.wf_write {u : Option Byte} {m : Memory} (a : Nat) (v : Byte) (h : Memory.wf u m) :
    Memory.wf u (Memory.write u m a v) := by
  rw [Memory.write]
  split
  · exact Memory.wf_erase a h
  · rename_i hv
    exact Memory.wf_insertSorted (Memory.wf_erase a h) (fun _ he => (Memory.mem_erase.mp he).2) hv

/-- Writing a list of bytes keeps the canonical form. -/
theorem Memory.wf_writeBytes {u : Option Byte} {m : Memory} (a : Nat) (vs : List Byte) (h : Memory.wf u m) :
    Memory.wf u (Memory.writeBytes u m a vs) := by
  induction vs generalizing m a with
  | nil => exact h
  | cons v vs ih => exact ih (a + 1) (Memory.wf_write a v h)

/-- A write lists no cell but the one it writes. -/
theorem Memory.mem_write {u : Option Byte} {m : Memory} {a : Nat} {v : Byte} {e : Host.Cell}
    (he : e ∈ Memory.write u m a v) : e.1 = a ∨ e ∈ m := by
  rw [Memory.write] at he
  split at he
  · exact .inr (Memory.mem_erase.mp he).1
  · rcases Memory.mem_insertSorted.mp he with rfl | he
    · exact .inl rfl
    · exact .inr (Memory.mem_erase.mp he).1

/-- Writing a list of bytes lists no cell but those it writes. -/
theorem Memory.mem_writeBytes {u : Option Byte} {vs : List Byte} {m : Memory} {a : Nat} {e : Host.Cell}
    (he : e ∈ Memory.writeBytes u m a vs) : (a ≤ e.1 ∧ e.1 < a + vs.length) ∨ e ∈ m := by
  induction vs generalizing m a with
  | nil => exact .inr he
  | cons v vs ih =>
    simp only [List.length_cons]
    rcases ih he with h | h
    · exact .inl (by omega)
    · rcases Memory.mem_write h with h | h
      · exact .inl (by omega)
      · exact .inr h

/-- The empty buffer of reset is canonical. -/
theorem Memory.wf_nil (u : Option Byte) : Memory.wf u [] := by simp [Memory.wf]

end Sys2Proof.Machine
end

