-- ==== Sys2Proof/Laws/State.lean ====
section
/-! SUPPORT. One lemma per field per named update of the state, true by rfl. -/

namespace Sys2Proof.Machine

open Sys2Proof

variable (s : State)

/-! `respond` -/

@[simp] theorem respond_config (v : Option Byte) : (respond v s).config = s.config := rfl
@[simp] theorem respond_buf (v : Option Byte) : (respond v s).buf = s.buf := rfl
@[simp] theorem respond_length (v : Option Byte) : (respond v s).length = s.length := rfl
@[simp] theorem respond_busy (v : Option Byte) : (respond v s).busy = s.busy := rfl
@[simp] theorem respond_tickEn (v : Option Byte) : (respond v s).tickEn = s.tickEn := rfl
@[simp] theorem respond_line (v : Option Byte) : (respond v s).line = s.line := rfl
@[simp] theorem respond_halfPhase (v : Option Byte) : (respond v s).halfPhase = s.halfPhase := rfl
@[simp] theorem respond_previousLevel (v : Option Byte) : (respond v s).previousLevel = s.previousLevel := rfl
@[simp] theorem respond_byteIndex (v : Option Byte) : (respond v s).byteIndex = s.byteIndex := rfl
@[simp] theorem respond_bitIndex (v : Option Byte) : (respond v s).bitIndex = s.bitIndex := rfl
@[simp] theorem respond_faultRecord (v : Option Byte) : (respond v s).faultRecord = s.faultRecord := rfl
@[simp] theorem respond_refusalMark (v : Option Byte) : (respond v s).refusalMark = s.refusalMark := rfl
@[simp] theorem respond_response (v : Option Byte) : (respond v s).response = v := rfl
@[simp] theorem respond_pending (v : Option Byte) : (respond v s).pending = s.pending := rfl

/-! `raise` -/

@[simp] theorem raise_config (r : FaultRecord) : (raise r s).config = s.config := rfl
@[simp] theorem raise_buf (r : FaultRecord) : (raise r s).buf = s.buf := rfl
@[simp] theorem raise_length (r : FaultRecord) : (raise r s).length = s.length := rfl
@[simp] theorem raise_busy (r : FaultRecord) : (raise r s).busy = s.busy := rfl
@[simp] theorem raise_tickEn (r : FaultRecord) : (raise r s).tickEn = s.tickEn := rfl
@[simp] theorem raise_line (r : FaultRecord) : (raise r s).line = s.line := rfl
@[simp] theorem raise_halfPhase (r : FaultRecord) : (raise r s).halfPhase = s.halfPhase := rfl
@[simp] theorem raise_previousLevel (r : FaultRecord) : (raise r s).previousLevel = s.previousLevel := rfl
@[simp] theorem raise_byteIndex (r : FaultRecord) : (raise r s).byteIndex = s.byteIndex := rfl
@[simp] theorem raise_bitIndex (r : FaultRecord) : (raise r s).bitIndex = s.bitIndex := rfl
@[simp] theorem raise_faultRecord (r : FaultRecord) : (raise r s).faultRecord = some r := rfl
@[simp] theorem raise_refusalMark (r : FaultRecord) : (raise r s).refusalMark = s.refusalMark := rfl
@[simp] theorem raise_response (r : FaultRecord) : (raise r s).response = s.response := rfl
@[simp] theorem raise_pending (r : FaultRecord) : (raise r s).pending = s.pending := rfl

/-! `refuse` -/

@[simp] theorem refuse_config (reason : RefusalReason) : (refuse reason s).config = s.config := rfl
@[simp] theorem refuse_buf (reason : RefusalReason) : (refuse reason s).buf = s.buf := rfl
@[simp] theorem refuse_length (reason : RefusalReason) : (refuse reason s).length = s.length := rfl
@[simp] theorem refuse_busy (reason : RefusalReason) : (refuse reason s).busy = s.busy := rfl
@[simp] theorem refuse_tickEn (reason : RefusalReason) : (refuse reason s).tickEn = s.tickEn := rfl
@[simp] theorem refuse_line (reason : RefusalReason) : (refuse reason s).line = s.line := rfl
@[simp] theorem refuse_halfPhase (reason : RefusalReason) : (refuse reason s).halfPhase = s.halfPhase := rfl
@[simp] theorem refuse_previousLevel (reason : RefusalReason) : (refuse reason s).previousLevel = s.previousLevel := rfl
@[simp] theorem refuse_byteIndex (reason : RefusalReason) : (refuse reason s).byteIndex = s.byteIndex := rfl
@[simp] theorem refuse_bitIndex (reason : RefusalReason) : (refuse reason s).bitIndex = s.bitIndex := rfl
@[simp] theorem refuse_faultRecord (reason : RefusalReason) : (refuse reason s).faultRecord = s.faultRecord := rfl
@[simp] theorem refuse_refusalMark (reason : RefusalReason) : (refuse reason s).refusalMark = (match s.refusalMark with | some first => some first | none => some reason) := rfl
@[simp] theorem refuse_response (reason : RefusalReason) : (refuse reason s).response = none := rfl
@[simp] theorem refuse_pending (reason : RefusalReason) : (refuse reason s).pending = s.pending := rfl

/-! `storePayload` -/

@[simp] theorem storePayload_config (data : List Byte) : (storePayload data s).config = s.config := rfl
@[simp] theorem storePayload_buf (data : List Byte) : (storePayload data s).buf = Memory.writeBytes (unlistedCell s.config) s.buf 0 data := rfl
@[simp] theorem storePayload_length (data : List Byte) : (storePayload data s).length = s.length := rfl
@[simp] theorem storePayload_busy (data : List Byte) : (storePayload data s).busy = s.busy := rfl
@[simp] theorem storePayload_tickEn (data : List Byte) : (storePayload data s).tickEn = s.tickEn := rfl
@[simp] theorem storePayload_line (data : List Byte) : (storePayload data s).line = s.line := rfl
@[simp] theorem storePayload_halfPhase (data : List Byte) : (storePayload data s).halfPhase = s.halfPhase := rfl
@[simp] theorem storePayload_previousLevel (data : List Byte) : (storePayload data s).previousLevel = s.previousLevel := rfl
@[simp] theorem storePayload_byteIndex (data : List Byte) : (storePayload data s).byteIndex = s.byteIndex := rfl
@[simp] theorem storePayload_bitIndex (data : List Byte) : (storePayload data s).bitIndex = s.bitIndex := rfl
@[simp] theorem storePayload_faultRecord (data : List Byte) : (storePayload data s).faultRecord = s.faultRecord := rfl
@[simp] theorem storePayload_refusalMark (data : List Byte) : (storePayload data s).refusalMark = s.refusalMark := rfl
@[simp] theorem storePayload_response (data : List Byte) : (storePayload data s).response = s.response := rfl
@[simp] theorem storePayload_pending (data : List Byte) : (storePayload data s).pending = s.pending := rfl

/-! `arm` -/

@[simp] theorem arm_config : (arm s).config = s.config := rfl
@[simp] theorem arm_buf : (arm s).buf = s.buf := rfl
@[simp] theorem arm_length : (arm s).length = s.length := rfl
@[simp] theorem arm_busy : (arm s).busy = 1#1 := rfl
@[simp] theorem arm_tickEn : (arm s).tickEn = 1#1 := rfl
@[simp] theorem arm_line : (arm s).line = s.line := rfl
@[simp] theorem arm_halfPhase : (arm s).halfPhase = s.halfPhase := rfl
@[simp] theorem arm_previousLevel : (arm s).previousLevel = s.previousLevel := rfl
@[simp] theorem arm_byteIndex : (arm s).byteIndex = s.byteIndex := rfl
@[simp] theorem arm_bitIndex : (arm s).bitIndex = s.bitIndex := rfl
@[simp] theorem arm_faultRecord : (arm s).faultRecord = s.faultRecord := rfl
@[simp] theorem arm_refusalMark : (arm s).refusalMark = s.refusalMark := rfl
@[simp] theorem arm_response : (arm s).response = s.response := rfl
@[simp] theorem arm_pending : (arm s).pending = s.pending := rfl

/-! `disarm` -/

@[simp] theorem disarm_config : (disarm s).config = s.config := rfl
@[simp] theorem disarm_buf : (disarm s).buf = s.buf := rfl
@[simp] theorem disarm_length : (disarm s).length = s.length := rfl
@[simp] theorem disarm_busy : (disarm s).busy = 0#1 := rfl
@[simp] theorem disarm_tickEn : (disarm s).tickEn = 0#1 := rfl
@[simp] theorem disarm_line : (disarm s).line = s.line := rfl
@[simp] theorem disarm_halfPhase : (disarm s).halfPhase = s.halfPhase := rfl
@[simp] theorem disarm_previousLevel : (disarm s).previousLevel = s.previousLevel := rfl
@[simp] theorem disarm_byteIndex : (disarm s).byteIndex = s.byteIndex := rfl
@[simp] theorem disarm_bitIndex : (disarm s).bitIndex = s.bitIndex := rfl
@[simp] theorem disarm_faultRecord : (disarm s).faultRecord = s.faultRecord := rfl
@[simp] theorem disarm_refusalMark : (disarm s).refusalMark = s.refusalMark := rfl
@[simp] theorem disarm_response : (disarm s).response = s.response := rfl
@[simp] theorem disarm_pending : (disarm s).pending = s.pending := rfl

/-! `clockEdgeStep` -/

@[simp] theorem clockEdgeStep_config : (clockEdgeStep s).config = s.config := rfl
@[simp] theorem clockEdgeStep_buf : (clockEdgeStep s).buf = s.buf := rfl
@[simp] theorem clockEdgeStep_length : (clockEdgeStep s).length = s.length := rfl
@[simp] theorem clockEdgeStep_busy : (clockEdgeStep s).busy = s.busy := rfl
@[simp] theorem clockEdgeStep_tickEn : (clockEdgeStep s).tickEn = s.tickEn := rfl
@[simp] theorem clockEdgeStep_line : (clockEdgeStep s).line = ~~~s.line := rfl
@[simp] theorem clockEdgeStep_halfPhase : (clockEdgeStep s).halfPhase = .dataEdge := rfl
@[simp] theorem clockEdgeStep_previousLevel : (clockEdgeStep s).previousLevel = s.previousLevel := rfl
@[simp] theorem clockEdgeStep_byteIndex : (clockEdgeStep s).byteIndex = s.byteIndex := rfl
@[simp] theorem clockEdgeStep_bitIndex : (clockEdgeStep s).bitIndex = s.bitIndex := rfl
@[simp] theorem clockEdgeStep_faultRecord : (clockEdgeStep s).faultRecord = s.faultRecord := rfl
@[simp] theorem clockEdgeStep_refusalMark : (clockEdgeStep s).refusalMark = s.refusalMark := rfl
@[simp] theorem clockEdgeStep_response : (clockEdgeStep s).response = s.response := rfl
@[simp] theorem clockEdgeStep_pending : (clockEdgeStep s).pending = s.pending := rfl

/-! `toggleIfEqual` -/

@[simp] theorem toggleIfEqual_config (b : Bit) : (toggleIfEqual b s).config = s.config := rfl
@[simp] theorem toggleIfEqual_buf (b : Bit) : (toggleIfEqual b s).buf = s.buf := rfl
@[simp] theorem toggleIfEqual_length (b : Bit) : (toggleIfEqual b s).length = s.length := rfl
@[simp] theorem toggleIfEqual_busy (b : Bit) : (toggleIfEqual b s).busy = s.busy := rfl
@[simp] theorem toggleIfEqual_tickEn (b : Bit) : (toggleIfEqual b s).tickEn = s.tickEn := rfl
@[simp] theorem toggleIfEqual_line (b : Bit) : (toggleIfEqual b s).line = if b = s.previousLevel then ~~~s.line else s.line := rfl
@[simp] theorem toggleIfEqual_halfPhase (b : Bit) : (toggleIfEqual b s).halfPhase = s.halfPhase := rfl
@[simp] theorem toggleIfEqual_previousLevel (b : Bit) : (toggleIfEqual b s).previousLevel = b := rfl
@[simp] theorem toggleIfEqual_byteIndex (b : Bit) : (toggleIfEqual b s).byteIndex = s.byteIndex := rfl
@[simp] theorem toggleIfEqual_bitIndex (b : Bit) : (toggleIfEqual b s).bitIndex = s.bitIndex := rfl
@[simp] theorem toggleIfEqual_faultRecord (b : Bit) : (toggleIfEqual b s).faultRecord = s.faultRecord := rfl
@[simp] theorem toggleIfEqual_refusalMark (b : Bit) : (toggleIfEqual b s).refusalMark = s.refusalMark := rfl
@[simp] theorem toggleIfEqual_response (b : Bit) : (toggleIfEqual b s).response = s.response := rfl
@[simp] theorem toggleIfEqual_pending (b : Bit) : (toggleIfEqual b s).pending = s.pending := rfl

/-! `completePacket` -/

@[simp] theorem completePacket_config : (completePacket s).config = s.config := rfl
@[simp] theorem completePacket_buf : (completePacket s).buf = s.buf := rfl
@[simp] theorem completePacket_length : (completePacket s).length = s.length := rfl
@[simp] theorem completePacket_busy : (completePacket s).busy = 0#1 := rfl
@[simp] theorem completePacket_tickEn : (completePacket s).tickEn = 0#1 := rfl
@[simp] theorem completePacket_line : (completePacket s).line = idleLevel s.config := rfl
@[simp] theorem completePacket_halfPhase : (completePacket s).halfPhase = s.halfPhase := rfl
@[simp] theorem completePacket_previousLevel : (completePacket s).previousLevel = seedLevel s.config := rfl
@[simp] theorem completePacket_byteIndex : (completePacket s).byteIndex = 0 := rfl
@[simp] theorem completePacket_bitIndex : (completePacket s).bitIndex = 6#3 := rfl
@[simp] theorem completePacket_faultRecord : (completePacket s).faultRecord = s.faultRecord := rfl
@[simp] theorem completePacket_refusalMark : (completePacket s).refusalMark = s.refusalMark := rfl
@[simp] theorem completePacket_response : (completePacket s).response = s.response := rfl
@[simp] theorem completePacket_pending : (completePacket s).pending = s.pending := rfl

/-! `resetFields` -/

@[simp] theorem resetFields_config : (resetFields s).config = s.config := rfl
@[simp] theorem resetFields_buf : (resetFields s).buf = [] := rfl
@[simp] theorem resetFields_length : (resetFields s).length = 0 := rfl
@[simp] theorem resetFields_busy : (resetFields s).busy = 0#1 := rfl
@[simp] theorem resetFields_tickEn : (resetFields s).tickEn = 0#1 := rfl
@[simp] theorem resetFields_line : (resetFields s).line = idleLevel s.config := rfl
@[simp] theorem resetFields_halfPhase : (resetFields s).halfPhase = .clockEdge := rfl
@[simp] theorem resetFields_previousLevel : (resetFields s).previousLevel = seedLevel s.config := rfl
@[simp] theorem resetFields_byteIndex : (resetFields s).byteIndex = 0 := rfl
@[simp] theorem resetFields_bitIndex : (resetFields s).bitIndex = 6#3 := rfl
@[simp] theorem resetFields_faultRecord : (resetFields s).faultRecord = s.faultRecord := rfl
@[simp] theorem resetFields_refusalMark : (resetFields s).refusalMark = s.refusalMark := rfl
@[simp] theorem resetFields_response : (resetFields s).response = s.response := rfl
@[simp] theorem resetFields_pending : (resetFields s).pending = s.pending := rfl

/-! `advanceCursor`: its two cases differ in the cursor's indices only. -/

@[simp] theorem advanceCursor_config : (advanceCursor s).config = s.config := by
  unfold advanceCursor; split <;> rfl
@[simp] theorem advanceCursor_buf : (advanceCursor s).buf = s.buf := by
  unfold advanceCursor; split <;> rfl
@[simp] theorem advanceCursor_length : (advanceCursor s).length = s.length := by
  unfold advanceCursor; split <;> rfl
@[simp] theorem advanceCursor_busy : (advanceCursor s).busy = s.busy := by
  unfold advanceCursor; split <;> rfl
@[simp] theorem advanceCursor_tickEn : (advanceCursor s).tickEn = s.tickEn := by
  unfold advanceCursor; split <;> rfl
@[simp] theorem advanceCursor_line : (advanceCursor s).line = s.line := by
  unfold advanceCursor; split <;> rfl
@[simp] theorem advanceCursor_halfPhase : (advanceCursor s).halfPhase = s.halfPhase := by
  unfold advanceCursor; split <;> rfl
@[simp] theorem advanceCursor_previousLevel : (advanceCursor s).previousLevel = s.previousLevel := by
  unfold advanceCursor; split <;> rfl
@[simp] theorem advanceCursor_byteIndex : (advanceCursor s).byteIndex = if s.bitIndex = 0#3 then s.byteIndex + 1 else s.byteIndex := by
  unfold advanceCursor; split <;> rfl
@[simp] theorem advanceCursor_bitIndex : (advanceCursor s).bitIndex = if s.bitIndex = 0#3 then 6#3 else s.bitIndex - 1#3 := by
  unfold advanceCursor; split <;> rfl
@[simp] theorem advanceCursor_faultRecord : (advanceCursor s).faultRecord = s.faultRecord := by
  unfold advanceCursor; split <;> rfl
@[simp] theorem advanceCursor_refusalMark : (advanceCursor s).refusalMark = s.refusalMark := by
  unfold advanceCursor; split <;> rfl
@[simp] theorem advanceCursor_response : (advanceCursor s).response = s.response := by
  unfold advanceCursor; split <;> rfl
@[simp] theorem advanceCursor_pending : (advanceCursor s).pending = s.pending := by
  unfold advanceCursor; split <;> rfl

end Sys2Proof.Machine
end

