-- ==== Sys2Proof/Laws/Ops.lean ====
section
/-! SUPPORT. One lemma per shared operation: everything it can do. -/

namespace Sys2Proof.Machine

open Sys2Proof

/-- An operation with a next state started unfaulted. -/
theorem unlessFaulted_eq_next {s t : State} {k : Host.Outcome State Fault Refusal} :
    unlessFaulted s k = .next t ↔ s.faultRecord = none ∧ k = .next t := by
  unfold unlessFaulted
  split <;> simp_all

theorem unlessFaulted_of_none {s : State} (h : s.faultRecord = none) (k : Host.Outcome State Fault Refusal) :
    unlessFaulted s k = k := by
  simp [unlessFaulted, h]

theorem unlessFaulted_of_some {s : State} {r : FaultRecord} (h : s.faultRecord = some r)
    (k : Host.Outcome State Fault Refusal) : unlessFaulted s k = .fault (.recorded r) := by
  simp [unlessFaulted, h]

/-- A cell depends on the configuration and the buffer alone. -/
theorem cell_congr {s t : State} (hc : t.config = s.config) (hb : t.buf = s.buf) (a : Nat) : cell t a = cell s a := by
  simp [cell, hc, hb]

/-- The three answers of MemRead (20_memory R52). -/
theorem memRead_cases (s : State) (i : Nat) :
    (s.config.capacity ≤ i ∧ memRead s i = .error ⟨.bufOob, i⟩) ∨
    (i < s.config.capacity ∧ cell s i = none ∧ memRead s i = .error ⟨.bufUnwritten, i⟩) ∨
    (i < s.config.capacity ∧ ∃ b, cell s i = some b ∧ memRead s i = .ok b) := by
  unfold memRead
  by_cases h : s.config.capacity ≤ i
  · simp [h]
  · cases hc : cell s i <;> simp [h] <;> omega

/-- The payload lands in cells `0..count-1`, in order. -/
theorem cell_storePayload_inside {s : State} {data : List Byte} {i : Nat} {b : Byte} (h : data[i]? = some b) :
    cell (storePayload data s) i = some b := by
  simpa [cell] using Memory.read_writeBytes_inside (unlistedCell s.config) data s.buf 0 i b h

/-- Cells from `count` on keep their content. -/
theorem cell_storePayload_outside {s : State} {data : List Byte} {i : Nat} (h : data.length ≤ i) :
    cell (storePayload data s) i = cell s i := by
  simpa [cell] using Memory.read_writeBytes_outside (unlistedCell s.config) data s.buf 0 i (by omega)

/-- The model's data bit is the byte's bit `bit_index`. -/
theorem dataBit_eq (b : Byte) (k : BitVec 3) : dataBit b k = BitVec.ofBool (b.getLsbD k.toNat) := by
  revert b k
  decide +revert

/-- The two ways a data edge ends. -/
theorem finishDataEdge_cases (s : State) :
    (s.byteIndex = s.length ∧ finishDataEdge s = { completePacket s with halfPhase := .clockEdge }) ∨
    (s.byteIndex ≠ s.length ∧ finishDataEdge s = { s with halfPhase := .clockEdge }) := by
  unfold finishDataEdge
  by_cases h : s.byteIndex = s.length <;> simp [h]

/-- The ways taking a transaction can go. -/
theorem fetch_cases (s : State) :
    (s.pending = [] ∧ fetch s = .idle) ∨
    (s.pending ≠ [] ∧ ∃ r, s.faultRecord = some r ∧ fetch s = .quiescent r) ∨
    (s.faultRecord = none ∧ ∃ issue rest, s.pending = issue :: rest ∧
      ((∃ reason, decode issue.bytes = .error reason ∧ fetch s = .refused reason rest) ∨
       (∃ i n, decode issue.bytes = .ok (i, n) ∧
          ((issue.agent ≠ issuer i ∧ fetch s = .refused .wrongAgent (pendingAfter issue n rest)) ∨
           (issue.agent = issuer i ∧ fetch s = .run i (pendingAfter issue n rest)))))) := by
  unfold fetch
  cases hp : s.pending with
  | nil => simp
  | cons issue rest =>
    cases hf : s.faultRecord with
    | some r => simp
    | none =>
      cases hd : decode issue.bytes with
      | error reason => simp [hd]
      | ok p =>
        obtain ⟨i, n⟩ := p
        by_cases ha : issue.agent = issuer i <;> simp [hd, ha]

/-- A step that has a next state waited, refused a transaction or ran an operation. -/
theorem step_cases {s t : State} (h : step s = .next t) :
    (s.pending = [] ∧ t = s) ∨
    (s.faultRecord = none ∧ ∃ reason rest, t = refuse reason { s with pending := rest }) ∨
    (s.faultRecord = none ∧ ∃ i rest, exec i { s with pending := rest } = .next t) := by
  unfold step at h
  rcases fetch_cases s with ⟨hp, hf⟩ | ⟨_, r, _, hf⟩ | ⟨hn, issue, rest, _, ⟨reason, _, hf⟩ | ⟨i, n, _, ⟨_, hf⟩ | ⟨_, hf⟩⟩⟩ <;>
    rw [hf] at h
  · exact .inl ⟨hp, (Host.Outcome.next.inj h).symm⟩
  · exact nomatch h
  · exact .inr (.inl ⟨hn, reason, rest, (Host.Outcome.next.inj h).symm⟩)
  · exact .inr (.inl ⟨hn, .wrongAgent, _, (Host.Outcome.next.inj h).symm⟩)
  · exact .inr (.inr ⟨hn, i, _, h⟩)

end Sys2Proof.Machine
end

