-- ==== Sys2Proof/Laws/Exec.lean ====
section
/-! SUPPORT. What one operation can do, said once: an operation that has a next state started unfaulted and took one
of these ways. -/

namespace Sys2Proof.Machine

open Sys2Proof

/-- A DataEdge that reads byte `b` and does not reach the end of the packet. -/
def advanced (b : Byte) (s : State) : State :=
  { advanceCursor (toggleIfEqual (dataBit b s.bitIndex) s) with halfPhase := .clockEdge }

/-- A DataEdge that ends the packet. -/
def completed (b : Byte) (s : State) : State :=
  { completePacket (advanceCursor (toggleIfEqual (dataBit b s.bitIndex) s)) with halfPhase := .clockEdge }

/-- What a terminal tick leaves, field by field: nothing of the byte read remains. -/
theorem completed_eq (b : Byte) (s : State) : completed b s = { s with
    busy := 0#1, tickEn := 0#1, line := idleLevel s.config, byteIndex := 0, bitIndex := 6#3,
    previousLevel := seedLevel s.config, halfPhase := .clockEdge } := by
  simp only [completed, completePacket, disarm, advanceCursor_config, toggleIfEqual_config, advanceCursor_buf,
    advanceCursor_length, advanceCursor_faultRecord, advanceCursor_refusalMark, advanceCursor_response,
    advanceCursor_pending, toggleIfEqual_buf, toggleIfEqual_length, toggleIfEqual_faultRecord,
    toggleIfEqual_refusalMark, toggleIfEqual_response, toggleIfEqual_pending]

/-- The ways a DataEdge can go. -/
theorem dataEdgeStep_cases (s : State) :
    (∃ r, memRead s s.byteIndex = .error r ∧ dataEdgeStep s = raise r s) ∨
    (∃ b, memRead s s.byteIndex = .ok b ∧
      ((s.nextByteIndex ≠ s.length ∧ dataEdgeStep s = advanced b s) ∨
       (s.nextByteIndex = s.length ∧ dataEdgeStep s = completed b s))) := by
  unfold dataEdgeStep
  cases h : memRead s s.byteIndex with
  | error r => exact .inl ⟨r, rfl, rfl⟩
  | ok b =>
    refine .inr ⟨b, rfl, ?_⟩
    have key : (advanceCursor (toggleIfEqual (dataBit b s.bitIndex) s)).byteIndex = s.nextByteIndex := by
      rw [advanceCursor_byteIndex]
      rfl
    rcases finishDataEdge_cases (advanceCursor (toggleIfEqual (dataBit b s.bitIndex) s)) with ⟨he, hf⟩ | ⟨he, hf⟩ <;>
      rw [key] at he
    · exact .inr ⟨by simpa using he, hf⟩
    · exact .inl ⟨by simpa using he, hf⟩

/-- The ways TICK reaches a next state. -/
theorem execTick_cases {s t : State} (h : execTick s = .next t) :
    s.faultRecord = none ∧ s.tickEn = 1#1 ∧
    ((s.halfPhase = .clockEdge ∧ t = respond none (clockEdgeStep s)) ∨
     (s.halfPhase = .dataEdge ∧ ∃ r, memRead s s.byteIndex = .error r ∧ t = respond none (raise r s)) ∨
     (s.halfPhase = .dataEdge ∧ ∃ b, memRead s s.byteIndex = .ok b ∧ s.nextByteIndex ≠ s.length ∧
        t = respond none (advanced b s)) ∨
     (s.halfPhase = .dataEdge ∧ ∃ b, memRead s s.byteIndex = .ok b ∧ s.nextByteIndex = s.length ∧
        t = respond none (completed b s))) := by
  obtain ⟨hf, h⟩ := unlessFaulted_eq_next.mp h
  split at h
  case isFalse => exact nomatch h
  case isTrue ha =>
    obtain rfl := Host.Outcome.next.inj h
    refine ⟨hf, ha, ?_⟩
    unfold encoderStep
    cases hp : s.halfPhase with
    | clockEdge => exact .inl ⟨rfl, rfl⟩
    | dataEdge =>
      rcases dataEdgeStep_cases s with ⟨r, hr, he⟩ | ⟨b, hb, ⟨hn, he⟩ | ⟨hn, he⟩⟩ <;> simp only [he]
      · exact .inr (.inl ⟨trivial, r, hr, rfl⟩)
      · exact .inr (.inr (.inl ⟨trivial, b, hb, hn, rfl⟩))
      · exact .inr (.inr (.inr ⟨trivial, b, hb, hn, rfl⟩))

/-- An enabled TICK runs the encoder's step. -/
theorem execTick_of_enabled {s : State} (hf : s.faultRecord = none) (ha : s.tickEn = 1#1) :
    execTick s = .next (respond none (encoderStep s)) := by
  simp [execTick, unlessFaulted_of_none hf, ha]

/-- The ways ENQUEUE reaches a next state. -/
theorem execEnqueue_cases {s t : State} {data : List Byte} (h : execEnqueue data s = .next t) :
    s.faultRecord = none ∧
    ((¬ countLegal s.config data.length ∧ t = respond (some (responseByte .badCount)) s) ∨
     (countLegal s.config data.length ∧ s.busy = 1#1 ∧ t = respond (some (responseByte .busy)) s) ∨
     (countLegal s.config data.length ∧ s.busy ≠ 1#1 ∧
        t = respond (some (responseByte .accepted)) (acceptPacket data s))) := by
  obtain ⟨hf, h⟩ := unlessFaulted_eq_next.mp h
  obtain rfl := Host.Outcome.next.inj h
  refine ⟨hf, ?_⟩
  by_cases hc : countLegal s.config data.length
  · by_cases hb : s.busy = 1#1
    · exact .inr (.inl ⟨hc, hb, by rw [if_neg (not_not_intro hc), if_pos hb]⟩)
    · exact .inr (.inr ⟨hc, hb, by rw [if_neg (not_not_intro hc), if_neg hb]⟩)
  · exact .inl ⟨hc, by rw [if_pos hc]⟩

/-- STATUS reaches a next state in one way. -/
theorem execStatus_cases {s t : State} (h : execStatus s = .next t) :
    s.faultRecord = none ∧ t = respond (some (statusWord s)) s := by
  obtain ⟨hf, h⟩ := unlessFaulted_eq_next.mp h
  exact ⟨hf, (Host.Outcome.next.inj h).symm⟩

/-- RESET reaches a next state in one way. -/
theorem execReset_cases {s t : State} (h : execReset s = .next t) :
    s.faultRecord = none ∧ t = respond none (resetFields s) := by
  obtain ⟨hf, h⟩ := unlessFaulted_eq_next.mp h
  exact ⟨hf, (Host.Outcome.next.inj h).symm⟩

end Sys2Proof.Machine
end

