-- ==== Sys2Proof/Laws/Execution.lean ====
section
/-! SUPPORT. What one step of an execution can do, and the induction over an execution, once. -/

namespace Sys2Proof.Machine

open Sys2Proof

variable (s : State) (new : List Issue)

@[simp] theorem issue_config : (s.issue new).config = s.config := rfl
@[simp] theorem issue_buf : (s.issue new).buf = s.buf := rfl
@[simp] theorem issue_length : (s.issue new).length = s.length := rfl
@[simp] theorem issue_busy : (s.issue new).busy = s.busy := rfl
@[simp] theorem issue_tickEn : (s.issue new).tickEn = s.tickEn := rfl
@[simp] theorem issue_line : (s.issue new).line = s.line := rfl
@[simp] theorem issue_halfPhase : (s.issue new).halfPhase = s.halfPhase := rfl
@[simp] theorem issue_previousLevel : (s.issue new).previousLevel = s.previousLevel := rfl
@[simp] theorem issue_byteIndex : (s.issue new).byteIndex = s.byteIndex := rfl
@[simp] theorem issue_bitIndex : (s.issue new).bitIndex = s.bitIndex := rfl
@[simp] theorem issue_faultRecord : (s.issue new).faultRecord = s.faultRecord := rfl
@[simp] theorem issue_refusalMark : (s.issue new).refusalMark = s.refusalMark := rfl
@[simp] theorem issue_response : (s.issue new).response = s.response := rfl
@[simp] theorem issue_pending : (s.issue new).pending = s.pending ++ new := rfl

/-- The transactions left after the first bytes of an issue are its agent's and the rest. -/
theorem agent_of_mem_pendingAfter {issue x : Issue} {n : Nat} {rest : List Issue}
    (h : x ∈ pendingAfter issue n rest) : x.agent = issue.agent ∨ x ∈ rest := by
  unfold pendingAfter at h
  split at h
  · exact .inr h
  · rcases List.mem_cons.mp h with rfl | h
    · exact .inl rfl
    · exact .inr h

/-- The ways one step of an execution can go: the block waits, refuses a transaction, or carries out the operation of
the oldest one, which its legal issuer issued. -/
theorem IsExecution.step_cases {issued : Schedule} {run : Nat → State} (h : IsExecution issued run) (k : Nat) :
    (operationAt issued run k = none ∧ (run k).pending = [] ∧ issued k = [] ∧ run (k + 1) = run k) ∨
    (operationAt issued run k = none ∧ (run k).faultRecord = none ∧ ∃ issue rest reason left,
      (run k).pending ++ issued k = issue :: rest ∧ (∀ x ∈ left, x.agent = issue.agent ∨ x ∈ rest) ∧
      run (k + 1) = refuse reason { run k with pending := left }) ∨
    (∃ i, operationAt issued run k = some i ∧ (run k).faultRecord = none ∧ ∃ issue rest left,
      (run k).pending ++ issued k = issue :: rest ∧ issue.agent = issuer i ∧
      (∀ x ∈ left, x.agent = issue.agent ∨ x ∈ rest) ∧
      exec i { run k with pending := left } = .next (run (k + 1))) := by
  have hs := h k
  unfold operationAt
  unfold step at hs
  rcases fetch_cases ((run k).issue (issued k)) with
      ⟨hp, hf⟩ | ⟨_, r, _, hf⟩ | ⟨hn, issue, rest, hp, ⟨reason, _, hf⟩ | ⟨i, n, _, ⟨_, hf⟩ | ⟨ha, hf⟩⟩⟩ <;>
    rw [hf] at hs ⊢
  · have hp' := List.append_eq_nil_iff.mp hp
    refine .inl ⟨rfl, hp'.1, hp'.2, ?_⟩
    rw [← Host.Outcome.next.inj hs]
    simp [State.issue, hp'.2]
  · exact nomatch hs
  · exact .inr (.inl ⟨rfl, hn, issue, rest, reason, rest, hp, fun x hx => .inr hx, (Host.Outcome.next.inj hs).symm⟩)
  · exact .inr (.inl ⟨rfl, hn, issue, rest, .wrongAgent, _, hp, fun x hx => agent_of_mem_pendingAfter hx,
      (Host.Outcome.next.inj hs).symm⟩)
  · exact .inr (.inr ⟨i, rfl, hn, issue, rest, _, hp, ha, fun x hx => agent_of_mem_pendingAfter hx, hs⟩)

/-- What issuing keeps and every step keeps holds at every later step of an execution. -/
theorem IsExecution.always {issued : Schedule} {run : Nat → State} {P : State → Prop} (h : IsExecution issued run)
    (keepsIssue : ∀ s new, P s → P (s.issue new)) (keepsStep : ∀ s t, P s → step s = .next t → P t) (k : Nat)
    (start : P (run k)) (j : Nat) (hj : k ≤ j) : P (run j) := by
  induction j, hj using Nat.le_induction with
  | base => exact start
  | succ j _ ih => exact keepsStep _ _ (keepsIssue _ _ ih) (h j)

end Sys2Proof.Machine
end

