-- ==== Sys2Proof/Laws/PerInstr.lean ====
section
/-! SUPPORT. Facts said of each operation as syntax, one lemma per constructor. -/

namespace Sys2Proof.Laws

open Sys2Proof

/-- R75: an operation's header matches a row of the opcode table that bears its mnemonic. -/
def HeaderMatchesRow.Statement (i : Instr) : Prop :=
  ∃ r ∈ opcodeTable, r.mnemonic = mnemonicOf i ∧ matchesRow r (headerWord i) = true

theorem HeaderMatchesRow.enqueue (data : List Byte) : HeaderMatchesRow.Statement (.enqueue data) := by
  refine ⟨⟨"ENQUEUE", 0x0001#16, 0x00FF#16⟩, by simp [opcodeTable], rfl, ?_⟩
  have h : ∀ c : BitVec 8, ((c ++ (0b00000#5 ++ 0b001#3 : BitVec 8) : BitVec 16) &&& 0x00FF#16) == 0x0001#16 := by
    decide
  exact h _

theorem HeaderMatchesRow.status : HeaderMatchesRow.Statement .status :=
  ⟨⟨"STATUS", 0x0002#16, 0xFFFF#16⟩, by simp [opcodeTable], rfl, by decide⟩

theorem HeaderMatchesRow.tick : HeaderMatchesRow.Statement .tick :=
  ⟨⟨"TICK", 0x0003#16, 0xFFFF#16⟩, by simp [opcodeTable], rfl, by decide⟩

theorem HeaderMatchesRow.reset : HeaderMatchesRow.Statement .reset :=
  ⟨⟨"RESET", 0x0007#16, 0xFFFF#16⟩, by simp [opcodeTable], rfl, by decide⟩

end Sys2Proof.Laws
end

