-- ==== Sys2Proof/Tests/Slice0.lean ====
section
/-! SUPPORT. Tests against spec/95_test_vectors, and a witness for the hypotheses of every statement. -/

namespace Sys2Proof.Tests

open Sys2Proof Sys2Proof.Machine

/-! ## States the tests start from -/

/-- A configuration with the spec's defaults but for the parameters given. -/
def build (conv : Convention) (capacity : Nat) (trailing : Bool) (bufReset : BufReset) : Config :=
  { Config.default with conv := conv, capacity := capacity, trailingByte := trailing, bufReset := bufReset }

/-- Idle after reset. -/
def idle : State := State.resetWith (build .thomas 4 false .unwritten)

/-- N1 of 95: right after `ENQ 0x48`. -/
def started : State := { idle with buf := [(0, 0x48#8)], length := 1, busy := 1#1, tickEn := 1#1 }

/-- The pre-states of D1 to D9 of 95: a DataEdge of a one-byte packet `b`. -/
def dataEdge (b : Byte) (bit : BitVec 3) (previous line : Bit) : State :=
  { started with
    buf := [(0, b)], bitIndex := bit, previousLevel := previous, line := line, halfPhase := .dataEdge }

/-- The pre-state of D10 of 95: TRAILING_BYTE at full capacity, the DataEdge past the buffer. -/
def pastTheEnd : State :=
  { State.resetWith (build .thomas 1 true .unwritten) with
    buf := [(0, 0x01#8)], length := 2, busy := 1#1, tickEn := 1#1, halfPhase := .dataEdge, byteIndex := 1 }

/-- The pre-state of D11 of 95, with either BUF_RESET: the trailing byte was never written. -/
def trailingUnwritten (bufReset : BufReset) : State :=
  { State.resetWith (build .thomas 3 true bufReset) with
    buf := [(0, 0x11#8), (1, 0x7F#8)], length := 3, busy := 1#1, tickEn := 1#1, halfPhase := .dataEdge
    byteIndex := 2 }

/-- A block with a fault recorded (P5 of 95) and a STATUS pending. -/
def faulted : State :=
  { pastTheEnd with faultRecord := some ⟨.bufOob, 1⟩, pending := [⟨.producer, [0x02#8, 0x00#8]⟩] }

/-! ## Well-formedness -/

theorem test_illformed_enqueue_refused : Instr.wellFormed (.enqueue (List.replicate 256 0x00#8)) = false := by
  rw [Instr.wellFormed, List.length_replicate]
  decide

theorem test_longest_enqueue_wellFormed : Instr.wellFormed (.enqueue (List.replicate 255 0x00#8)) = true := by
  rw [Instr.wellFormed, List.length_replicate]
  decide

/-! ## Decoding, words written out from 30_encoding R70, R71, R78 and vectors E1 to E10 of 95 -/

/-- `count = 2, rsv = 00000, op = 001`, then the payload. -/
theorem test_decode_enqueue :
    decode [0b00000001#8, 0b00000010#8, 0x11#8, 0x7F#8] = .ok (.enqueue [0x11#8, 0x7F#8], 4) := by decide

theorem test_decode_enqueue_empty : decode [0x01#8, 0x00#8] = .ok (.enqueue [], 2) := by decide

/-- `op = 010`; the bytes after it are the next transaction's. -/
theorem test_decode_status : decode [0b00000010#8, 0x00#8, 0x03#8] = .ok (.status, 2) := by decide

/-- `op = 011`. -/
theorem test_decode_tick : decode [0b00000011#8, 0x00#8] = .ok (.tick, 2) := by decide

/-- `op = 111`. -/
theorem test_decode_reset : decode [0b00000111#8, 0x00#8] = .ok (.reset, 2) := by decide

theorem test_decode_reserved_ops :
    decode [0x00#8, 0x00#8] = .error .reservedOp ∧ decode [0x04#8, 0x00#8] = .error .reservedOp ∧
    decode [0x05#8, 0x00#8] = .error .reservedOp ∧ decode [0x06#8, 0x00#8] = .error .reservedOp := by decide

theorem test_decode_reserved_bits :
    decode [0x0A#8, 0x00#8] = .error .reservedBits ∧ decode [0x03#8, 0x01#8] = .error .reservedBits := by decide

theorem test_decode_truncated :
    decode [0x01#8, 0x02#8, 0x48#8] = .error .truncated ∧ decode [0x02#8] = .error .truncated := by decide

theorem test_encode_words :
    encode (.enqueue [0xC3#8, 0x3C#8]) = [0x01#8, 0x02#8, 0xC3#8, 0x3C#8] ∧ encode .status = [0x02#8, 0x00#8] ∧
    encode .tick = [0x03#8, 0x00#8] ∧ encode .reset = [0x07#8, 0x00#8] := by decide

theorem test_table_words :
    decodeTableWord 16 0x0001 = some (.enqueue []) ∧ decodeTableWord 16 0x0002 = some .status ∧
    decodeTableWord 16 0x0003 = some .tick ∧ decodeTableWord 16 0x0007 = some .reset ∧
    decodeTableWord 16 0x0000 = none := by decide

/-- `P: ENQ 0xC3, 0x3C` (P2 of 95, R78). -/
theorem test_line_text : lineText ⟨some .producer, .op (.enqueue [0xC3#8, 0x3C#8])⟩ = "P: ENQ 0xC3, 0x3C" := by
  decide

/-- `T: DRAIN` and `P: GAP` (P3 of 95). -/
theorem test_pseudo_line_text :
    lineText ⟨some .tickSource, .drain⟩ = "T: DRAIN" ∧ lineText ⟨some .producer, .gap⟩ = "P: GAP" ∧
    lineText ⟨some .tickSource, .ticks 3⟩ = "T: TICK 3" := by decide

/-- One ill-formed line for each check (R78, R79). -/
theorem test_lines_refused :
    Line.wellFormed ⟨none, .op (.enqueue (List.replicate 256 0x00#8))⟩ = false ∧
    Line.wellFormed ⟨none, .ticks 0⟩ = false ∧ Line.wellFormed ⟨some .producer, .drain⟩ = false ∧
    Line.wellFormed ⟨none, .send [] (List.replicate 256 0x00#8)⟩ = false ∧
    Line.wellFormed ⟨some .tickSource, .send [] [0x01#8]⟩ = false := by
  simp only [Line.wellFormed, Instr.wellFormed, List.length_replicate]
  decide

/-- R79: SEND polls while BUSY = 1; here one TICK falls after the first poll and none after the second. -/
theorem test_send_polls :
    sendOps [0x01#8] [1, 0] started = [.status, .tick, .status, .status] ∧
    sendOps [0x01#8] [1, 0] idle = [.status, .enqueue [0x01#8]] := by decide

/-- 140 µs for one byte at 50000 baud (70_reset_and_hazards R217). -/
theorem test_packet_seconds : packetSeconds Timing.default 1 = 140 / 1000000 := by
  norm_num [packetSeconds, Timing.default]

/-! ## One step each -/

/-- N8 of 95: cells at or above `count` keep their content. -/
theorem test_enqueue_keeps_later_cells :
    nextState (exec (.enqueue [0x22#8]) { idle with buf := [(0, 0x48#8), (1, 0x99#8)], length := 2 }) =
      some { idle with
        buf := [(0, 0x22#8), (1, 0x99#8)], length := 1, busy := 1#1, tickEn := 1#1, response := some 0x00#8 } := by
  decide

/-- N7 of 95: busy and an illegal count is BAD_COUNT. -/
theorem test_enqueue_bounds_before_busy :
    nextState (exec (.enqueue []) started) = some { started with response := some 0x02#8 } := by decide

/-- S3 of 95. -/
theorem test_status_busy : nextState (exec .status started) = some { started with response := some 0b011#8 } := by
  decide

/-- S2 of 95. -/
theorem test_status_ieee_idle :
    (nextState (exec .status (State.resetWith (build .ieee 4 false .unwritten)))).map State.response =
      some (some 0b100#8) := by decide

/-- D6 of 95: `bit_index` wraps to 6 and `byte_index` advances. -/
theorem test_tick_wraps_bit_index :
    nextState (exec .tick { dataEdge 0x01#8 0#3 1#1 0#1 with buf := [(0, 0x01#8), (1, 0x00#8)], length := 2 }) =
      some { started with
        buf := [(0, 0x01#8), (1, 0x00#8)], length := 2, line := 1#1, previousLevel := 1#1, byteIndex := 1 } := by
  decide

/-- D8 of 95: the terminal tick forces idle where the bit calls for no toggle. -/
theorem test_tick_terminal_forces_idle :
    nextState (exec .tick (dataEdge 0x01#8 0#3 0#1 1#1)) =
      some { idle with buf := [(0, 0x01#8)], length := 1 } := by decide

/-- X2 of 95: RESET in the middle of a packet. -/
theorem test_reset_mid_packet : nextState (exec .reset (dataEdge 0x48#8 6#3 0#1 1#1)) = some idle := by decide

/-- X1 of 95 with `BUF_RESET = zero`: every cell reads 0x00. -/
theorem test_reset_zero_buffer :
    (nextState (exec .reset (trailingUnwritten .zero))).map (fun t => (cell t 0, cell t 2)) =
      some (some 0x00#8, some 0x00#8) := by decide

/-- K4 of 95: a TICK issued by the producer. -/
theorem test_producer_tick_refused :
    nextState (step { started with pending := [⟨.producer, [0x03#8, 0x00#8]⟩] }) =
      some { started with refusalMark := some .wrongAgent } := by decide

/-- The machine's first step after reset runs the table's words. -/
theorem test_first_steps_run :
    (nextState (step (State.reset.withFetchWord 16 0x0001))).map State.response = some (some 0x02#8) ∧
    (nextState (step (State.reset.withFetchWord 16 0x0002))).map State.response = some (some 0x00#8) ∧
    (nextState (step (State.reset.withFetchWord 16 0x0003))).map State.line = some 1#1 ∧
    (nextState (step (State.reset.withFetchWord 16 0x0007))).map State.length = some 0 := by decide

/-! ## Witnesses: states and operands that meet each statement's hypotheses -/

theorem idle_inv : idle.Inv :=
  ⟨rfl, fun _ => rfl, fun _ => ⟨rfl, rfl, rfl, rfl⟩, by decide, by decide, by decide, by decide⟩

theorem started_inv : started.Inv :=
  ⟨rfl, by decide, fun h => absurd h (by decide), by decide, by decide, by decide, by decide⟩

theorem dataEdge_inv : (dataEdge 0x48#8 6#3 0#1 1#1).Inv :=
  ⟨rfl, by decide, fun h => absurd h (by decide), by decide, by decide, by decide, by decide⟩

theorem pastTheEnd_inv : pastTheEnd.Inv :=
  ⟨rfl, by decide, fun h => absurd h (by decide), by decide, by decide, by decide, by decide⟩

theorem started_readable : started.PacketReadable := by
  show ∀ j, j < 1 → j < 4 ∧ cell started j ≠ none
  decide

theorem started_packetStart : started.PacketStart :=
  ⟨rfl, rfl, rfl, rfl, ⟨rfl, rfl, rfl, rfl⟩, by decide, started_readable⟩

theorem pastTheEnd_payloadReadable : pastTheEnd.PayloadReadable := by
  intro _
  show ∀ j, j + 1 < 2 → j < 1 ∧ cell pastTheEnd j ≠ none
  intro j hj
  obtain rfl : j = 0 := by omega
  decide

theorem started_payloadReadable : started.PayloadReadable := fun _ j hj => started_readable j hj

theorem idle_bufferForm : idle.BufferForm := ⟨by decide, by decide⟩

theorem started_bufferForm : started.BufferForm := ⟨by decide, by decide⟩

/-- The longest ENQUEUE and the shortest. -/
theorem witness_DecodeOfEncodeIsTheOperation :
    (Instr.enqueue (List.replicate 255 0x00#8)).WellFormed ∧ (Instr.enqueue []).WellFormed ∧
    Instr.tick.WellFormed := by
  refine ⟨?_, Nat.zero_le _, trivial⟩
  show (List.replicate 255 0x00#8).length ≤ 255
  rw [List.length_replicate]

theorem witness_DecodedBytesAreTheEncoding :
    decode [0x01#8, 0x01#8, 0x48#8, 0x03#8] = .ok (.enqueue [0x48#8], 3) := by decide

/-- A header of no row (its clause's premise), and one of a row. -/
theorem witness_HeaderBelongsToAtMostOneRow :
    (∀ r ∈ opcodeTable, matchesRow r (headerOf 0x03#8 0x01#8) = false) ∧
    decode [0x03#8, 0x00#8] = .ok (.tick, 2) ∧
    matchesRow ⟨"ENQUEUE", 0x0001#16, 0x00FF#16⟩ (headerOf 0x01#8 0xFF#8) = true := by decide

/-- One byte string for each clause: too short, each reserved op's edge, a reserved bit alone, a payload one byte
short, a payload exactly long enough, a count of 1 in another header, and the three plain headers. -/
theorem witness_DecoderAnswersEveryByteString :
    ([0x01#8] : List Byte).length < 2 ∧ (0xF8#8).toNat % 8 ∈ [0, 4, 5, 6] ∧ (0x06#8).toNat % 8 ∈ [0, 4, 5, 6] ∧
    ((0x0F#8).toNat % 8 ∉ [0, 4, 5, 6] ∧ (0x0F#8).toNat / 8 ≠ 0) ∧
    ([0x48#8] : List Byte).length < (0x02#8).toNat ∧ (0x01#8).toNat ≤ ([0x48#8] : List Byte).length ∧
    (0x07#8 ∈ [0b00000010#8, 0b00000011#8, 0b00000111#8] ∧ 0x01#8 ≠ 0x00#8) := by decide

/-- A transaction followed by another in the same bytes, and one alone. -/
theorem witness_StepRunsTheDecodedOperation :
    started.faultRecord = none ∧
    { started with pending := [⟨.producer, [0x02#8, 0x00#8, 0x02#8, 0x00#8]⟩] }.pending =
      [⟨.producer, [0x02#8, 0x00#8, 0x02#8, 0x00#8]⟩] ∧
    decode [0x02#8, 0x00#8, 0x02#8, 0x00#8] = .ok (.status, 2) ∧ Agent.producer = issuer .status ∧
    decode [0x03#8, 0x00#8] = .ok (.tick, 2) ∧ Agent.tickSource = issuer .tick := by decide

/-- Bytes that do not decode, and a RESET of the producer's. -/
theorem witness_RefusedTransactionOnlySetsTheMark :
    started.faultRecord = none ∧ started.refusalMark = none ∧ decode [0x00#8, 0x00#8] = .error .reservedOp ∧
    decode [0x07#8, 0x00#8] = .ok (.reset, 2) ∧ Agent.producer ≠ issuer .reset := by decide

/-- The producer's STATUS, and the platform's. -/
theorem witness_AgentIssuesOnlyItsOperations :
    started.faultRecord = none ∧ started.refusalMark = none ∧
    { started with pending := [⟨.platform, encode .status⟩] }.pending = [⟨.platform, encode .status⟩] ∧
    issuer .status = .producer ∧ issuer .status ≠ .platform := by decide

/-- A TICK that records a fault, and a state that holds one. -/
theorem witness_RecordedFaultStopsTheBlock :
    (nextState (exec .tick pastTheEnd)).map State.faultRecord = some (some ⟨.bufOob, 1⟩) ∧
    faulted.faultRecord = some ⟨.bufOob, 1⟩ ∧ faulted.pending ≠ [] ∧
    nextState (step { faulted with pending := [] }) = some { faulted with pending := [] } := by decide

theorem witness_StepKeepsTheRefusalMark :
    (nextState (step { started with
      refusalMark := some .truncated, pending := [⟨.platform, [0x07#8, 0x00#8]⟩] })).map State.refusalMark =
      some (some .truncated) := by decide

theorem witness_NoStepWritesTheConfiguration :
    (nextState (step { started with pending := [⟨.platform, [0x07#8, 0x00#8]⟩] })).map State.config =
      some started.config := by decide

/-- No byte, and one byte more than the buffer holds; idle and busy. -/
theorem witness_EnqueueRejectsIllegalCount :
    idle.faultRecord = none ∧ started.faultRecord = none ∧ ([] : List Byte).length = 0 ∧
    idle.config.capacity < [1#8, 2#8, 3#8, 4#8, 5#8].length ∧ started.config.capacity = 4 := by decide

/-- One byte, and as many as the buffer holds. -/
theorem witness_EnqueueWhileBusyAnswersBusy :
    started.faultRecord = none ∧ started.busy = 1#1 ∧ 1 ≤ [0x11#8].length ∧
    [1#8, 2#8, 3#8, 4#8].length ≤ started.config.capacity := by decide

/-- Both modes: `count = 1` and `count = C`. -/
theorem witness_AcceptedEnqueueHandsOverThePacket :
    idle.faultRecord = none ∧ idle.busy = 0#1 ∧ 1 ≤ [0x48#8].length ∧
    [1#8, 2#8, 3#8, 4#8].length ≤ idle.config.capacity ∧ idle.config.trailingByte = false ∧
    (build .thomas 4 true .unwritten).trailingByte = true ∧ [0x48#8][0]? = some 0x48#8 := by decide

/-- An accepted ENQUEUE and a rejected one. -/
theorem witness_EnqueueFrame :
    (nextState (exec (.enqueue [0x48#8]) idle)).isSome = true ∧
    (nextState (exec (.enqueue [0x48#8]) started)).isSome = true := by decide

theorem witness_EnqueueSucceedsExactlyWhenIdleAndLegal :
    (nextState (exec (.enqueue [0x48#8]) idle)).map State.response = some (some 0x00#8) ∧
    (nextState (exec (.enqueue [0x11#8]) started)).map State.response = some (some 0x01#8) := by decide

theorem witness_ResponsesHaveTheirCodes :
    (nextState (exec (.enqueue []) idle)).isSome = true ∧ (nextState (exec .status idle)).isSome = true ∧
    (nextState (exec .tick started)).isSome = true ∧ (nextState (exec .reset started)).isSome = true := by decide

theorem witness_StatusAnswersTheWordAndChangesNothing : started.faultRecord = none := rfl

/-- A STATUS that reads BUSY = 1, the terminal tick, a STATUS that reads TICK_EN = 0. -/
theorem witness_CompletionIsSeenOnlyAfterTerminalTickOrReset :
    (dataEdge 0x01#8 0#3 0#1 1#1).Inv ∧
    ((nextState (exec .status (dataEdge 0x01#8 0#3 0#1 1#1))).map State.response = some (some 0b111#8)) ∧
    ((nextState (runOps [.tick] (dataEdge 0x01#8 0#3 0#1 1#1))).map State.tickEn = some 0#1) ∧
    (0b111#8).extractLsb' 0 1 = 1#1 :=
  ⟨⟨rfl, by decide, fun h => absurd h (by decide), by decide, by decide, by decide, by decide⟩,
    by decide, by decide, by decide⟩

/-- An armed block, a disarmed one, a faulted one. -/
theorem witness_EachOperationIsEnabledWhereItsRuleSays :
    (started.tickEn = 1#1 ∧ started.faultRecord = none) ∧ idle.tickEn = 0#1 ∧ faulted.faultRecord ≠ none := by decide

theorem witness_ClockEdgeTogglesTheLine :
    started.faultRecord = none ∧ started.tickEn = 1#1 ∧ started.halfPhase = .clockEdge := by decide

/-- `bit_index` at 6 and, in a two-byte packet, at 0. -/
theorem witness_DataEdgeEncodesOneBit :
    let s := dataEdge 0x40#8 6#3 1#1 1#1
    let u := { dataEdge 0x01#8 0#3 1#1 0#1 with length := 2 }
    (s.faultRecord = none ∧ s.tickEn = 1#1 ∧ s.halfPhase = .dataEdge ∧ s.byteIndex < s.config.capacity ∧
      cell s s.byteIndex = some 0x40#8 ∧ s.nextByteIndex ≠ s.length) ∧
    (cell u u.byteIndex = some 0x01#8 ∧ u.bitIndex = 0#3 ∧ u.nextByteIndex ≠ u.length) := by decide

theorem witness_TerminalTickReleasesTheBlock :
    let s := dataEdge 0x01#8 0#3 0#1 1#1
    s.faultRecord = none ∧ s.tickEn = 1#1 ∧ s.halfPhase = .dataEdge ∧ s.byteIndex < s.config.capacity ∧
      cell s s.byteIndex = some 0x01#8 ∧ s.nextByteIndex = s.length := by decide

/-- D10 of 95: `byte_index = C`. -/
theorem witness_DataEdgeReadPastTheBufferFaults :
    (pastTheEnd.faultRecord = none ∧ pastTheEnd.tickEn = 1#1 ∧ pastTheEnd.halfPhase = .dataEdge ∧
      pastTheEnd.config.capacity ≤ pastTheEnd.byteIndex) ∧ pastTheEnd.Inv :=
  ⟨by decide, pastTheEnd_inv⟩

/-- D11 of 95 under both values of `BUF_RESET`; and the last bit of the byte, where the packet does not end. -/
theorem witness_DataEdgeReadOfUnwrittenCell :
    let s := trailingUnwritten .unwritten
    let z := trailingUnwritten .zero
    (s.faultRecord = none ∧ s.tickEn = 1#1 ∧ s.halfPhase = .dataEdge ∧ s.byteIndex < s.config.capacity ∧
      (∀ e ∈ s.buf, e.1 ≠ s.byteIndex) ∧ s.config.bufReset = .unwritten) ∧
    (z.faultRecord = none ∧ z.tickEn = 1#1 ∧ z.halfPhase = .dataEdge ∧ z.byteIndex < z.config.capacity ∧
      (∀ e ∈ z.buf, e.1 ≠ z.byteIndex) ∧ z.config.bufReset = .zero ∧ z.nextByteIndex ≠ z.length) := by decide

/-- Both fault codes. -/
theorem witness_OnlyDataEdgeTicksFault :
    (nextState (exec .tick pastTheEnd)).map State.faultRecord = some (some ⟨.bufOob, 1⟩) ∧
    (nextState (exec .tick (trailingUnwritten .unwritten))).map State.faultRecord =
      some (some ⟨.bufUnwritten, 2⟩) := by decide

/-- A ClockEdge, a DataEdge that is not terminal, a fault. -/
theorem witness_TickFrame :
    (nextState (exec .tick started)).isSome = true ∧
    (nextState (exec .tick (dataEdge 0x40#8 6#3 0#1 1#1))).isSome = true ∧
    (dataEdge 0x40#8 6#3 0#1 1#1).nextByteIndex ≠ (dataEdge 0x40#8 6#3 0#1 1#1).length ∧
    (nextState (exec .tick pastTheEnd)).isSome = true := by decide

/-- A ClockEdge, a DataEdge that is not terminal, a terminal one. -/
theorem witness_LineTransitions :
    (nextState (exec .tick started)).map State.faultRecord = some none ∧
    (nextState (exec .tick (dataEdge 0x40#8 6#3 1#1 1#1))).map State.faultRecord = some none ∧
    cell (dataEdge 0x40#8 6#3 1#1 1#1) 0 = some 0x40#8 ∧
    (dataEdge 0x40#8 6#3 1#1 1#1).nextByteIndex ≠ (dataEdge 0x40#8 6#3 1#1 1#1).length ∧
    (nextState (exec .tick (dataEdge 0x01#8 0#3 0#1 1#1))).map State.faultRecord = some none ∧
    (dataEdge 0x01#8 0#3 0#1 1#1).nextByteIndex = (dataEdge 0x01#8 0#3 0#1 1#1).length := by decide

/-- Both conventions and both values of `BUF_RESET`. -/
theorem witness_ResetGivesEveryFieldItsResetValue :
    started.faultRecord = none ∧ started.config.conv = .thomas ∧ (build .ieee 4 false .zero).conv = .ieee ∧
    started.config.bufReset = .unwritten ∧ (build .ieee 4 false .zero).bufReset = .zero := by decide

theorem witness_ResetDuringPacketLooksLikeCompletion : started.faultRecord = none ∧ started.busy = 1#1 := by decide

/-- An ENQUEUE that arms, a terminal TICK and a RESET that disarm. -/
theorem witness_OnlyAcceptedEnqueueArmsAndTerminalTickDisarms :
    idle.tickEn = 0#1 ∧ (nextState (exec (.enqueue [0x48#8]) idle)).map State.tickEn = some 1#1 ∧
    started.tickEn = 1#1 ∧ (nextState (exec .reset started)).map State.tickEn = some 0#1 ∧
    (nextState (exec .tick (dataEdge 0x01#8 0#3 0#1 1#1))).map State.tickEn = some 0#1 := by decide

theorem witness_AcceptedPacketIsNeverCancelled :
    started.busy = 1#1 ∧ (nextState (exec .reset started)).map State.busy = some 0#1 := by decide

theorem witness_OwnedBufferIsNeverMutated :
    started.busy = 1#1 ∧ (nextState (exec (.enqueue [0x11#8]) started)).isSome = true ∧
    Instr.enqueue [0x11#8] ≠ .reset := by decide

theorem witness_ProducerNeverTouchesTheCursor :
    (nextState (exec (.enqueue [0x11#8]) idle)).isSome = true ∧ (nextState (exec .status idle)).isSome = true := by
  decide

theorem witness_StalledTickSourceHangsBusy :
    started.Inv ∧ started.faultRecord = none ∧ started.busy = 1#1 ∧
    (∀ i ∈ [Instr.status, Instr.enqueue [0x11#8]], i ≠ .tick ∧ i ≠ .reset) ∧
    1 ≤ [0x11#8].length ∧ [1#8, 2#8, 3#8, 4#8].length ≤ started.config.capacity :=
  ⟨started_inv, by decide, by decide, by decide, by decide, by decide⟩

/-- A hung block with a STATUS pending, and an ENQUEUE issued behind it. -/
theorem witness_HungBlockStaysHung :
    { started with pending := [⟨.producer, [0x02#8, 0x00#8]⟩] }.Hung ∧
    (nextState (step ({ started with pending := [⟨.producer, [0x02#8, 0x00#8]⟩] }.issue
      [⟨.producer, [0x01#8, 0x01#8, 0x11#8]⟩]))).isSome = true ∧
    (∀ issue ∈ [(⟨.producer, [0x02#8, 0x00#8]⟩ : Issue)], issue.agent ≠ .platform) ∧
    (∀ issue ∈ [(⟨.producer, [0x01#8, 0x01#8, 0x11#8]⟩ : Issue)], issue.agent = .producer) :=
  ⟨⟨by decide, by decide, by decide⟩, by decide, by decide, by decide⟩

/-- A final state with nothing pending, and one with a RESET pending. -/
theorem witness_FinalStateRestsAtIdle :
    idle.Inv ∧ idle.Final ∧ idle.pending = [] ∧ { idle with pending := [⟨.platform, [0x07#8, 0x00#8]⟩] }.Final :=
  ⟨idle_inv, ⟨rfl, rfl, rfl, rfl, by decide⟩, rfl, ⟨rfl, rfl, rfl, rfl, by decide⟩⟩

/-- A packet in flight, polled once: a STATUS leaves it as it is. -/
def polled : State := { started with response := some 0b011#8 }

/-- One tick before the end of a packet. -/
def lastTick : State := dataEdge 0x01#8 0#3 0#1 1#1

/-- The state after the terminal tick. -/
def finished : State := { idle with buf := [(0, 0x01#8)], length := 1 }

/-- The terminal tick and then nothing more. -/
def finishingRun : Nat → State
  | 0 => lastTick
  | _ + 1 => finished

/-- A TICK is issued at once, and nothing after it. -/
def finishingSchedule : Schedule
  | 0 => [⟨.tickSource, [0x03#8, 0x00#8]⟩]
  | _ + 1 => []

theorem polled_step : step (polled.issue [⟨.producer, [0x02#8, 0x00#8]⟩]) = .next polled := by
  have taken : fetch (polled.issue [⟨.producer, [0x02#8, 0x00#8]⟩]) = .run .status [] := by decide
  rw [step, taken]
  rfl

theorem polled_forever : IsExecution (fun _ => [⟨.producer, [0x02#8, 0x00#8]⟩]) fun _ => polled :=
  fun _ => polled_step


theorem finishing_isExecution : IsExecution finishingSchedule finishingRun
  | 0 => rfl
  | _ + 1 => rfl

/-- An infinite sequence, of STATUS polls, and a finite one, of no operation. -/
theorem witness_EnabledOperationsFormAnExecution :
    (polled.pending = [] ∧ Instr.status.WellFormed ∧ exec .status polled = .next polled) ∧ idle.pending = [] :=
  ⟨⟨rfl, trivial, rfl⟩, rfl⟩

theorem witness_ArmedBlockMayNeverTick :
    started.faultRecord = none ∧ started.tickEn = 1#1 ∧ started.pending = [] := by decide

/-- The producer polls a hung block for ever. -/
theorem witness_StalledTickSourceHangsForever :
    IsExecution (fun _ => [⟨.producer, [0x02#8, 0x00#8]⟩]) (fun _ => polled) ∧ polled.Inv ∧ polled.Hung ∧
    (∀ issue ∈ polled.pending, issue.agent ≠ .platform) ∧
    (∀ issue ∈ [(⟨.producer, [0x02#8, 0x00#8]⟩ : Issue)], issue.agent = .producer) ∧
    1 ≤ [0x11#8].length ∧ [1#8, 2#8, 3#8, 4#8].length ≤ polled.config.capacity :=
  ⟨polled_forever, ⟨rfl, fun h => absurd h (by decide), fun h => absurd h (by decide), by decide, fun _ => by decide,
    fun _ => by decide, by decide⟩, ⟨rfl, rfl, by decide⟩, by decide, by decide, by decide, by decide⟩

/-- The last TICK of a packet comes, and nothing after it. -/
theorem witness_FairExecutionEndsEveryPacket :
    IsExecution finishingSchedule finishingRun ∧ TickFair finishingSchedule finishingRun ∧
    (finishingRun 0).config.trailingByte = false ∧ (finishingRun 0).Inv ∧ (finishingRun 0).PayloadReadable ∧
    (finishingRun 0).faultRecord = none ∧ (finishingRun 0).tickEn = 1#1 := by
  refine ⟨finishing_isExecution, ?_, rfl, ?_, ?_, rfl, rfl⟩
  · intro k armed
    exact absurd (armed (k + 1) (Nat.le_succ k)).1 (by decide : ¬ finished.tickEn = 1#1)
  · exact ⟨rfl, fun h => absurd h (by decide), fun h => absurd h (by decide), by decide, fun _ => by decide,
      fun _ => by decide, by decide⟩
  · intro _
    show ∀ j, j + 0 < 1 → j < 4 ∧ cell lastTick j ≠ none
    decide

/-- The execution ends after the terminal tick. -/
theorem witness_EndedExecutionStaysIdle :
    IsExecution finishingSchedule finishingRun ∧ (finishingRun 1).Inv ∧ EndsAt finishingSchedule finishingRun 1 := by
  refine ⟨finishing_isExecution, ?_, ⟨⟨rfl, rfl, rfl, rfl, by decide⟩, ?_⟩⟩
  · exact ⟨rfl, fun _ => rfl, fun _ => ⟨rfl, rfl, rfl, rfl⟩, by decide, fun h => absurd h (by decide),
      fun h => absurd h (by decide), by decide⟩
  · intro j hj issue hi
    cases j with
    | zero => omega
    | succ j => exact nomatch hi

/-- Idle and busy states are reached. -/
theorem witness_ReachableStatesHaveTheInvariants :
    (nextState (runOps [.enqueue [0x48#8]] idle)).map State.busy = some 1#1 ∧
    (nextState (runOps [.status] idle)).map State.busy = some 0#1 := by decide

theorem witness_StepKeepsTheInvariants :
    { started with pending := [⟨.tickSource, [0x03#8, 0x00#8]⟩] }.Inv ∧
    (nextState (step { started with pending := [⟨.tickSource, [0x03#8, 0x00#8]⟩] })).map State.line = some 1#1 :=
  ⟨⟨rfl, by decide, fun h => absurd h (by decide), by decide, by decide, by decide, by decide⟩, by decide⟩

theorem witness_StepKeepsTheBufferForm :
    { idle with pending := [⟨.producer, [0x01#8, 0x01#8, 0x48#8]⟩] }.BufferForm ∧
    (nextState (step { idle with pending := [⟨.producer, [0x01#8, 0x01#8, 0x48#8]⟩] })).map State.buf =
      some [(0, 0x48#8)] :=
  ⟨⟨by decide, by decide⟩, by decide⟩

theorem witness_StepKeepsThePayloadReadable :
    pastTheEnd.Inv ∧ pastTheEnd.PayloadReadable ∧ nextState (step pastTheEnd) = some pastTheEnd :=
  ⟨pastTheEnd_inv, pastTheEnd_payloadReadable, by decide⟩

theorem witness_OnlyTheTrailingByteFaults :
    pastTheEnd.Inv ∧ pastTheEnd.PayloadReadable ∧
    (nextState (exec .tick pastTheEnd)).map State.faultRecord = some (some ⟨.bufOob, 1⟩) :=
  ⟨pastTheEnd_inv, pastTheEnd_payloadReadable, by decide⟩

/-- A packet in flight whose next TICK is pending. -/
theorem witness_WellIssuedExactCountRunsStaySafe :
    let s := { started with pending := [⟨.tickSource, [0x03#8, 0x00#8]⟩] }
    s.config.trailingByte = false ∧ s.Inv ∧ s.PayloadReadable ∧ s.WellIssued ∧ s.Safe ∧
    (nextState (step s)).isSome = true := by
  refine ⟨rfl, ⟨rfl, by decide, fun h => absurd h (by decide), by decide, by decide, by decide, by decide⟩,
    fun _ j hj => started_readable j hj, ?_, ⟨rfl, rfl⟩, by decide⟩
  intro issue h
  exact ⟨.tick, trivial, List.mem_singleton.mp h⟩

theorem witness_AcceptedEnqueueStartsAPacket :
    idle.config.trailingByte = false ∧ idle.Inv ∧ idle.faultRecord = none ∧ idle.busy = 0#1 ∧
    1 ≤ [0x48#8].length ∧ [1#8, 2#8, 3#8, 4#8].length ≤ idle.config.capacity :=
  ⟨rfl, idle_inv, rfl, rfl, by decide, by decide⟩

theorem witness_PacketTakesFourteenTicksPerByte : started.PacketStart := started_packetStart

/-- The start of a packet and the middle of one. -/
theorem witness_DrainEndsThePacketInFlight :
    (started.Inv ∧ started.faultRecord = none ∧ started.busy = 1#1 ∧ started.PacketReadable ∧
      started.CursorInitial) ∧ (dataEdge 0x48#8 6#3 0#1 1#1).Inv ∧ (dataEdge 0x48#8 6#3 0#1 1#1).PacketReadable := by
  refine ⟨⟨started_inv, rfl, rfl, started_readable, ⟨rfl, rfl, rfl, rfl⟩⟩, dataEdge_inv, ?_⟩
  show ∀ j, j < 1 → j < 4 ∧ cell (dataEdge 0x48#8 6#3 0#1 1#1) j ≠ none
  decide

/-- An agent that may not issue a DRAIN, one that may not issue a SEND, and the most operands. -/
theorem witness_PseudoLinesExpandAsTheTableSays :
    Agent.producer ≠ .tickSource ∧ Agent.tickSource ≠ .producer ∧ (List.replicate 255 0x01#8).length ≤ 255 := by
  simp only [List.length_replicate]
  decide

/-- Each kind of operation in a SEND: a STATUS that reads BUSY = 1, with TICKs to come and without, and with a TICK
that is not enabled; a TICK; a STATUS that reads BUSY = 0; the ENQUEUE; a STATUS after a fault. -/
theorem witness_SendPollsUntilStatusReadsIdle :
    (sendOps [0x01#8] [1] started = [] ++ .status :: [.tick, .status] ∧ started.busy = 1#1 ∧
      (nextState (runOps ([] ++ [.status, .tick]) started)).isSome = true) ∧
    (sendOps [0x01#8] [] started = [] ++ .status :: [] ∧ started.faultRecord = none) ∧
    (sendOps [0x01#8] [1] { started with tickEn := 0#1 } = [] ++ .status :: [.tick] ∧
      nextState (runOps ([] ++ [.status, .tick]) { started with tickEn := 0#1 }) = none) ∧
    (sendOps [0x01#8] [1] started = [.status] ++ .tick :: [.status] ∧
      (nextState (runOps [.status] started)).map State.busy = some 1#1) ∧
    (sendOps [0x01#8] [] idle = [] ++ .status :: [.enqueue [0x01#8]] ∧ idle.busy = 0#1) ∧
    (sendOps [0x01#8] [] idle = [.status] ++ .enqueue [0x01#8] :: [] ∧
      (nextState (runOps [.status] idle)).map State.busy = some 0#1) ∧
    (sendOps [0x01#8] [] faulted = [] ++ .status :: [] ∧ faulted.faultRecord ≠ none) := by decide

/-- The fourteen TICKs of the packet fall between three polls; `count = C`. -/
theorem witness_SendWaitsOutThePacketInFlight :
    started.Inv ∧ started.faultRecord = none ∧ started.busy = 1#1 ∧ started.PacketReadable ∧
    1 ≤ [1#8, 2#8, 3#8, 4#8].length ∧ [1#8, 2#8, 3#8, 4#8].length ≤ started.config.capacity ∧
    [3, 11].sum = ticksLeft started :=
  ⟨started_inv, rfl, rfl, started_readable, by decide, by decide, by decide⟩

theorem witness_WaveformHasTheClosedForm :
    started.PacketStart ∧ (∀ j, j < started.length → cell started j = some ((fun _ => 0x48#8) j)) := by
  refine ⟨started_packetStart, ?_⟩
  show ∀ j, j < 1 → cell started j = some 0x48#8
  decide

/-- 0x48 and 0xC8 differ in bit 7 (P6 of 95). -/
theorem witness_BitSevenIsNeverSent :
    started.PacketStart ∧ { started with buf := [(0, 0xC8#8)] }.PacketStart ∧
    SameButBitSeven started { started with buf := [(0, 0xC8#8)] } := by
  refine ⟨started_packetStart, ⟨rfl, rfl, rfl, rfl, ⟨rfl, rfl, rfl, rfl⟩, by decide, ?_⟩, ⟨rfl, ?_⟩⟩
  · show ∀ j, j < 1 → j < 4 ∧ cell { started with buf := [(0, 0xC8#8)] } j ≠ none
    decide
  · show ∀ j, j < 1 → (cell { started with buf := [(0, 0xC8#8)] } j).map (fun b => b &&& 0x7F#8) =
      (cell started j).map (fun b => b &&& 0x7F#8)
    decide

theorem witness_ReceiverRecoversAllButPerhapsTheLastBit :
    started.PacketStart ∧ (∀ j, j < started.length → cell started j = some ((fun _ => 0x48#8) j)) :=
  witness_WaveformHasTheClosedForm

/-- A positive rate, and a tie. -/
theorem witness_TickPeriodIsTheNearestInteger :
    0 < Timing.default.baud ∧
    (let p := { Timing.default with fRef := 150000 }; 2 * p.fRef = (2 * 1 + 1) * (2 * p.baud)) := by decide

end Sys2Proof.Tests
end

/-! ## The configuration is not written (00_scope R5) -/

namespace Sys2Proof.Machine

open Sys2Proof

@[simp] theorem acceptPacket_config (data : List Byte) (s : State) : (acceptPacket data s).config = s.config := rfl

@[simp] theorem advanced_config (b : Byte) (s : State) : (advanced b s).config = s.config := by
  simp [advanced]

@[simp] theorem completed_config (b : Byte) (s : State) : (completed b s).config = s.config := by
  simp [completed]

theorem execEnqueue_keeps_config {s t : State} {data : List Byte} (h : execEnqueue data s = .next t) :
    t.config = s.config := by
  obtain ⟨-, ⟨-, rfl⟩ | ⟨-, -, rfl⟩ | ⟨-, -, rfl⟩⟩ := execEnqueue_cases h <;> simp

theorem execStatus_keeps_config {s t : State} (h : execStatus s = .next t) : t.config = s.config := by
  obtain ⟨-, rfl⟩ := execStatus_cases h
  simp

theorem execTick_keeps_config {s t : State} (h : execTick s = .next t) : t.config = s.config := by
  obtain ⟨-, -, ⟨-, rfl⟩ | ⟨-, r, -, rfl⟩ | ⟨-, b, -, -, rfl⟩ | ⟨-, b, -, -, rfl⟩⟩ := execTick_cases h <;> simp

theorem execReset_keeps_config {s t : State} (h : execReset s = .next t) : t.config = s.config := by
  obtain ⟨-, rfl⟩ := execReset_cases h
  simp

theorem exec_keeps_config {s t : State} {i : Instr} (h : exec i s = .next t) : t.config = s.config := by
  cases i with
  | enqueue data => exact execEnqueue_keeps_config h
  | status => exact execStatus_keeps_config h
  | tick => exact execTick_keeps_config h
  | reset => exact execReset_keeps_config h

/-- Settles O11: a step waits, refuses a transaction or runs an operation, and each keeps the configuration. -/
theorem noStepWritesTheConfiguration : Obligations.NoStepWritesTheConfiguration := by
  intro s t h
  obtain ⟨-, rfl⟩ | ⟨-, reason, rest, rfl⟩ | ⟨-, i, rest, hexec⟩ := step_cases h
  · rfl
  · simp
  · exact (exec_keeps_config hexec :)

end Sys2Proof.Machine

/-! ## The fields of 10_state R20 taken as one block: what keeps them all, and what they alone decide -/

namespace Sys2Proof.Machine

open Sys2Proof

theorem SameBlock.trans {s t u : State} (hst : SameBlock s t) (htu : SameBlock t u) : SameBlock s u where
  config := htu.config.trans hst.config
  buf := htu.buf.trans hst.buf
  length := htu.length.trans hst.length
  busy := htu.busy.trans hst.busy
  tickEn := htu.tickEn.trans hst.tickEn
  line := htu.line.trans hst.line
  halfPhase := htu.halfPhase.trans hst.halfPhase
  previousLevel := htu.previousLevel.trans hst.previousLevel
  byteIndex := htu.byteIndex.trans hst.byteIndex
  bitIndex := htu.bitIndex.trans hst.bitIndex

theorem sameBlock_respond (v : Option Byte) (s : State) : SameBlock s (respond v s) := by
  constructor <;> rfl

theorem sameBlock_raise (r : FaultRecord) (s : State) : SameBlock s (raise r s) := by
  constructor <;> rfl

theorem sameBlock_refuse (reason : RefusalReason) (s : State) : SameBlock s (refuse reason s) := by
  constructor <;> rfl

theorem sameBlock_setPending (rest : List Issue) (s : State) : SameBlock s { s with pending := rest } := by
  constructor <;> rfl

theorem SameBlock.cell {s t : State} (h : SameBlock s t) (a : Nat) : Machine.cell t a = Machine.cell s a :=
  cell_congr h.config h.buf a

theorem SameBlock.sameCursor {s t : State} (h : SameBlock s t) : SameCursor s t :=
  ⟨h.halfPhase, h.previousLevel, h.byteIndex, h.bitIndex⟩

theorem SameBlock.cursorInitial {s t : State} (h : SameBlock s t) (hs : s.CursorInitial) : t.CursorInitial where
  half_phase := h.halfPhase.trans hs.half_phase
  previous_level := by rw [h.previousLevel, h.config, hs.previous_level]
  byte_index := h.byteIndex.trans hs.byte_index
  bit_index := h.bitIndex.trans hs.bit_index

/-- The invariants of R31 speak of the block's fields only. -/
theorem SameBlock.inv {s t : State} (h : SameBlock s t) (hs : s.Inv) : t.Inv where
  busy_is_armed := by rw [h.busy, h.tickEn, hs.busy_is_armed]
  idle_line hb := by rw [h.line, h.config, hs.idle_line (h.busy ▸ hb)]
  idle_cursor hb := h.cursorInitial (hs.idle_cursor (h.busy ▸ hb))
  length_range := by rw [h.length, h.config]; exact hs.length_range
  flight_length hb := by rw [h.length]; exact hs.flight_length (h.busy ▸ hb)
  flight_byte_index hb := by rw [h.length, h.byteIndex]; exact hs.flight_byte_index (h.busy ▸ hb)
  bit_index_range := by rw [h.bitIndex]; exact hs.bit_index_range

end Sys2Proof.Machine

/-! ## What the ends of an operation leave of the fields -/

namespace Sys2Proof.Machine

open Sys2Proof

variable (b : Byte) (s : State)

@[simp] theorem advanced_buf : (advanced b s).buf = s.buf := by simp [advanced]
@[simp] theorem advanced_length : (advanced b s).length = s.length := by simp [advanced]
@[simp] theorem advanced_busy : (advanced b s).busy = s.busy := by simp [advanced]
@[simp] theorem advanced_tickEn : (advanced b s).tickEn = s.tickEn := by simp [advanced]
@[simp] theorem advanced_byteIndex : (advanced b s).byteIndex = s.nextByteIndex :=
  advanceCursor_byteIndex _
@[simp] theorem advanced_bitIndex :
    (advanced b s).bitIndex = if s.bitIndex = 0#3 then 6#3 else s.bitIndex - 1#3 :=
  advanceCursor_bitIndex _
@[simp] theorem advanced_refusalMark : (advanced b s).refusalMark = s.refusalMark := by simp [advanced]
@[simp] theorem advanced_pending : (advanced b s).pending = s.pending := by simp [advanced]

@[simp] theorem completed_buf : (completed b s).buf = s.buf := by simp [completed]
@[simp] theorem completed_length : (completed b s).length = s.length := by simp [completed]
@[simp] theorem completed_busy : (completed b s).busy = 0#1 := rfl
@[simp] theorem completed_tickEn : (completed b s).tickEn = 0#1 := rfl
@[simp] theorem completed_line : (completed b s).line = idleLevel s.config := by simp [completed]
@[simp] theorem completed_refusalMark : (completed b s).refusalMark = s.refusalMark := by simp [completed]
@[simp] theorem completed_pending : (completed b s).pending = s.pending := by simp [completed]

theorem completed_cursorInitial : (completed b s).CursorInitial := by
  constructor <;> simp [completed]

/-- The cells after an accepted ENQUEUE are those after its copy loop. -/
theorem cell_acceptPacket (data : List Byte) (a : Nat) :
    cell (acceptPacket data s) a = cell (storePayload data s) a := rfl

end Sys2Proof.Machine

/-! ## ENQUEUE's three branches, read forwards, and its two outcomes -/

namespace Sys2Proof.Machine

open Sys2Proof

variable {s : State} {data : List Byte}

theorem execEnqueue_of_illegal (hf : s.faultRecord = none) (hc : ¬ countLegal s.config data.length) :
    execEnqueue data s = .next (respond (some (responseByte .badCount)) s) := by
  rw [execEnqueue, unlessFaulted_of_none hf, if_pos hc]

theorem execEnqueue_of_busy (hf : s.faultRecord = none) (hc : countLegal s.config data.length)
    (hb : s.busy = 1#1) : execEnqueue data s = .next (respond (some (responseByte .busy)) s) := by
  rw [execEnqueue, unlessFaulted_of_none hf, if_neg (not_not_intro hc), if_pos hb]

theorem execEnqueue_of_accepted (hf : s.faultRecord = none) (hc : countLegal s.config data.length)
    (hb : s.busy ≠ 1#1) :
    execEnqueue data s = .next (respond (some (responseByte .accepted)) (acceptPacket data s)) := by
  rw [execEnqueue, unlessFaulted_of_none hf, if_neg (not_not_intro hc), if_neg hb]

theorem execStatus_of_unfaulted (hf : s.faultRecord = none) :
    execStatus s = .next (respond (some (statusWord s)) s) := by
  rw [execStatus, unlessFaulted_of_none hf]

/-- The two rejections differ in the answer only, and no accepted ENQUEUE is among them. -/
theorem execEnqueue_rejected_or_accepted {t : State} (h : execEnqueue data s = .next t) :
    (¬ (countLegal s.config data.length ∧ s.busy = 0#1) ∧ ∃ answer, t = respond answer s) ∨
    (countLegal s.config data.length ∧ s.busy = 0#1 ∧ ∃ answer, t = respond answer (acceptPacket data s)) := by
  obtain ⟨-, ⟨hc, ht⟩ | ⟨-, hb, ht⟩ | ⟨hc, hb, ht⟩⟩ := execEnqueue_cases h
  · exact .inl ⟨fun ha => hc ha.1, _, ht⟩
  · exact .inl ⟨fun ha => absurd (hb.symm.trans ha.2) (by decide), _, ht⟩
  · exact .inr ⟨hc, (BitVec.eq_zero_or_eq_one _).resolve_right hb, _, ht⟩

end Sys2Proof.Machine

/-! ## The invariants of 10_state R31, operation by operation -/

namespace Sys2Proof.Machine

open Sys2Proof

/-- An idle state needs its line at idle and its cursor initial; what R31 says of a packet in flight is void. -/
theorem State.inv_of_idle {s : State} (hb : s.busy = 0#1) (ha : s.tickEn = 0#1) (hl : s.line = idleLevel s.config)
    (hc : s.CursorInitial) (hn : s.length ≤ recordedLength s.config s.config.capacity) : s.Inv where
  busy_is_armed := hb.trans ha.symm
  idle_line _ := hl
  idle_cursor _ := hc
  length_range := hn
  flight_length h := absurd (hb.symm.trans h) (by decide)
  flight_byte_index h := absurd (hb.symm.trans h) (by decide)
  bit_index_range := by rw [hc.bit_index]; decide

/-- A state with a packet in flight needs its cursor inside the packet; what R31 says of an idle one is void. -/
theorem State.inv_of_flight {s : State} (hb : s.busy = 1#1) (ha : s.tickEn = 1#1)
    (hn : s.length ≤ recordedLength s.config s.config.capacity) (hi : s.byteIndex < s.length)
    (hk : s.bitIndex.toNat ≤ 6) : s.Inv where
  busy_is_armed := hb.trans ha.symm
  idle_line h := absurd (hb.symm.trans h) (by decide)
  idle_cursor h := absurd (hb.symm.trans h) (by decide)
  length_range := hn
  flight_length _ := by omega
  flight_byte_index _ := hi
  bit_index_range := hk

theorem recordedLength_mono (c : Config) {m n : Nat} (h : m ≤ n) : recordedLength c m ≤ recordedLength c n :=
  Nat.add_le_add_right h _

theorem le_recordedLength (c : Config) (n : Nat) : n ≤ recordedLength c n := Nat.le_add_right _ _

theorem State.nextByteIndex_le (s : State) : s.nextByteIndex ≤ s.byteIndex + 1 := by
  unfold State.nextByteIndex
  split <;> omega

/-- `bit_index` counts down from 6 and wraps at 0, so 7 is never reached (42_encoder R144). -/
theorem advanced_bitIndex_range (b : Byte) (s : State) : (advanced b s).bitIndex.toNat ≤ 6 := by
  have counted : ∀ k : BitVec 3, (if k = 0#3 then 6#3 else k - 1#3).toNat ≤ 6 := by decide
  rw [advanced_bitIndex]
  exact counted s.bitIndex

theorem resetWith_inv (c : Config) : (State.resetWith c).Inv :=
  State.inv_of_idle rfl rfl rfl ⟨rfl, rfl, rfl, rfl⟩ (Nat.zero_le _)

theorem resetFields_inv (s : State) : (resetFields s).Inv :=
  State.inv_of_idle rfl rfl rfl ⟨rfl, rfl, rfl, rfl⟩ (Nat.zero_le _)

/-- An accepted ENQUEUE starts at the idle cursor, below the recorded length. -/
theorem acceptPacket_inv {s : State} {data : List Byte} (hs : s.Inv) (hb : s.busy = 0#1)
    (hc : countLegal s.config data.length) : (acceptPacket data s).Inv := by
  obtain ⟨hpos, hcap⟩ := hc
  refine State.inv_of_flight rfl rfl (recordedLength_mono s.config hcap) ?_ hs.bit_index_range
  calc s.byteIndex = 0 := (hs.idle_cursor hb).byte_index
    _ < data.length := hpos
    _ ≤ recordedLength s.config data.length := le_recordedLength _ _

theorem clockEdgeStep_inv {s : State} (hs : s.Inv) (ha : s.tickEn = 1#1) : (clockEdgeStep s).Inv :=
  have hb : s.busy = 1#1 := hs.busy_is_armed.trans ha
  State.inv_of_flight hb ha hs.length_range (hs.flight_byte_index hb) hs.bit_index_range

/-- `byte_index` moves by at most one and has not reached `length`. -/
theorem advanced_inv {s : State} (b : Byte) (hs : s.Inv) (ha : s.tickEn = 1#1) (hn : s.nextByteIndex ≠ s.length) :
    (advanced b s).Inv := by
  have hb : s.busy = 1#1 := hs.busy_is_armed.trans ha
  have hin : s.nextByteIndex < s.length := by
    have := s.nextByteIndex_le
    have := hs.flight_byte_index hb
    omega
  refine State.inv_of_flight ?_ ?_ ?_ ?_ (advanced_bitIndex_range b s)
  · simpa using hb
  · simpa using ha
  · simpa using hs.length_range
  · simpa using hin

theorem completed_inv {s : State} (b : Byte) (hs : s.Inv) : (completed b s).Inv :=
  State.inv_of_idle (by simp) (by simp) (by simp) (completed_cursorInitial b s) (by simpa using hs.length_range)

theorem execEnqueue_keeps_inv {s t : State} {data : List Byte} (hs : s.Inv) (h : execEnqueue data s = .next t) :
    t.Inv := by
  obtain ⟨-, answer, rfl⟩ | ⟨hc, hb, answer, rfl⟩ := execEnqueue_rejected_or_accepted h
  · exact (sameBlock_respond answer s).inv hs
  · exact (sameBlock_respond answer _).inv (acceptPacket_inv hs hb hc)

theorem execStatus_keeps_inv {s t : State} (hs : s.Inv) (h : execStatus s = .next t) : t.Inv := by
  obtain ⟨-, rfl⟩ := execStatus_cases h
  exact (sameBlock_respond _ s).inv hs

theorem execTick_keeps_inv {s t : State} (hs : s.Inv) (h : execTick s = .next t) : t.Inv := by
  obtain ⟨-, ha, ⟨-, rfl⟩ | ⟨-, r, -, rfl⟩ | ⟨-, b, -, hn, rfl⟩ | ⟨-, b, -, -, rfl⟩⟩ := execTick_cases h <;>
    refine (sameBlock_respond none _).inv ?_
  · exact clockEdgeStep_inv hs ha
  · exact (sameBlock_raise r s).inv hs
  · exact advanced_inv b hs ha hn
  · exact completed_inv b hs

theorem execReset_keeps_inv {s t : State} (h : execReset s = .next t) : t.Inv := by
  obtain ⟨-, rfl⟩ := execReset_cases h
  exact (sameBlock_respond none _).inv (resetFields_inv s)

theorem exec_keeps_inv {s t : State} {i : Instr} (hs : s.Inv) (h : exec i s = .next t) : t.Inv := by
  cases i with
  | enqueue data => exact execEnqueue_keeps_inv hs h
  | status => exact execStatus_keeps_inv hs h
  | tick => exact execTick_keeps_inv hs h
  | reset => exact execReset_keeps_inv h

/-- Settles O40: waiting and refusing keep the block's fields, and every operation keeps the invariants. -/
theorem stepKeepsTheInvariants : Obligations.StepKeepsTheInvariants := by
  intro s t hs h
  obtain ⟨-, rfl⟩ | ⟨-, reason, rest, rfl⟩ | ⟨-, i, rest, hexec⟩ := step_cases h
  · exact hs
  · exact ((sameBlock_setPending rest s).trans (sameBlock_refuse reason _)).inv hs
  · exact exec_keeps_inv ((sameBlock_setPending rest s).inv hs) hexec

/-- Settles O38: at reset nothing is listed and the block is idle, whatever the configuration. -/
theorem resetStateHasTheInvariants : Obligations.ResetStateHasTheInvariants := by
  have atReset : ∀ c : Config,
      (State.resetWith c).Inv ∧ (State.resetWith c).BufferForm ∧ (State.resetWith c).PayloadReadable := by
    intro c
    have idle : (State.resetWith c).busy ≠ 1#1 := (by decide : (0#1 : Bit) ≠ 1#1)
    exact ⟨resetWith_inv c, ⟨Memory.wf_nil _, fun _ he => nomatch he⟩, fun hb => absurd hb idle⟩
  exact ⟨atReset, atReset Config.default⟩

/-- What every operation keeps holds after a run of operations. -/
theorem runOps_induction {P : State → Prop} (keeps : ∀ i s t, P s → exec i s = .next t → P t) {ops : List Instr}
    {s t : State} (hs : P s) (h : runOps ops s = .next t) : P t := by
  induction ops generalizing s with
  | nil => exact Host.Outcome.next.inj h ▸ hs
  | cons i is ih =>
    rw [runOps] at h
    cases he : exec i s with
    | next u => exact ih (keeps i s u hs he) (by simpa only [he] using h)
    | fault r => simp [he] at h
    | refused r => simp [he] at h

/-- Settles O39: the invariants hold at reset and every operation keeps them and the configuration. -/
theorem reachableStatesHaveTheInvariants : Obligations.ReachableStatesHaveTheInvariants := by
  intro c ops s h
  have hinv : s.Inv := runOps_induction (P := State.Inv) (fun _ _ _ hs he => exec_keeps_inv hs he) (resetWith_inv c) h
  have hconfig : s.config = c :=
    runOps_induction (P := fun u => u.config = c) (fun _ _ _ hs he => (exec_keeps_config he).trans hs) rfl h
  subst hconfig
  refine ⟨hinv.busy_is_armed, fun hb => ?_, fun hb => ?_, fun h7 => ?_⟩
  · obtain ⟨hphase, hlevel, hbyte, hbit⟩ := hinv.idle_cursor hb
    exact ⟨hinv.idle_line hb, hphase, hlevel, hbyte, hbit⟩
  · exact ⟨hinv.flight_length hb, hinv.length_range, hinv.flight_byte_index hb, hinv.bit_index_range⟩
  · exact absurd hinv.bit_index_range (by rw [h7]; decide)

end Sys2Proof.Machine

/-! ## What the operations leave unchanged -/

namespace Sys2Proof.Machine

open Sys2Proof

/-- Settles O15: a rejection only answers; an accepted ENQUEUE stores to cells below its count and leaves the rest. -/
theorem enqueueFrame : Obligations.EnqueueFrame := by
  intro s t data h
  obtain ⟨-, answer, rfl⟩ | ⟨⟨hpos, hcap⟩, hb, answer, rfl⟩ := execEnqueue_rejected_or_accepted h
  · have same := sameBlock_respond answer s
    exact ⟨same.sameCursor, rfl, rfl, rfl, rfl, fun a _ => same.cell a, fun _ => same⟩
  · refine ⟨⟨rfl, rfl, rfl, rfl⟩, rfl, rfl, rfl, rfl, fun a ha => ?_, fun hr => ?_⟩
    · have outside : data.length ≤ a := Nat.le_of_not_lt fun hlt => ha ⟨hpos, hcap, hb, hlt⟩
      calc cell (respond answer (acceptPacket data s)) a
          = cell (storePayload data s) a := ((sameBlock_respond _ _).cell a).trans (cell_acceptPacket s data a)
        _ = cell s a := cell_storePayload_outside outside
    · exact absurd ⟨hpos, hcap, hb⟩ hr

/-- No way of TICK writes the buffer, the length, the mark or the pending transactions. -/
theorem execTick_keeps {s t : State} (h : execTick s = .next t) :
    t.buf = s.buf ∧ t.length = s.length ∧ t.refusalMark = s.refusalMark ∧ t.pending = s.pending := by
  obtain ⟨-, -, ⟨-, rfl⟩ | ⟨-, r, -, rfl⟩ | ⟨-, b, -, -, rfl⟩ | ⟨-, b, -, -, rfl⟩⟩ := execTick_cases h <;> simp

/-- Only the terminal tick writes the flags (42_encoder R145). -/
theorem execTick_keeps_flags {s t : State} (h : execTick s = .next t) (hterminal : ¬ s.TerminalTickNext) :
    t.busy = s.busy ∧ t.tickEn = s.tickEn := by
  obtain ⟨-, -, ⟨-, rfl⟩ | ⟨-, r, -, rfl⟩ | ⟨-, b, -, -, rfl⟩ | ⟨hp, b, -, hn, rfl⟩⟩ := execTick_cases h
  · exact ⟨rfl, rfl⟩
  · exact ⟨rfl, rfl⟩
  · simp
  · exact absurd ⟨hp, hn⟩ hterminal

/-- On a ClockEdge TICK has one way to go (42_encoder R141). -/
theorem execTick_clockEdge {s t : State} (h : execTick s = .next t) (hp : s.halfPhase = .clockEdge) :
    t = respond none (clockEdgeStep s) := by
  obtain ⟨-, -, ⟨-, ht⟩ | ⟨hd, -⟩ | ⟨hd, -⟩ | ⟨hd, -⟩⟩ := execTick_cases h
  · exact ht
  all_goals exact nomatch hp.symm.trans hd

/-- Settles O27: the buffer, `length`, the mark and the pending list on every path; the flags and the cursor where
the edge leaves them. -/
theorem tickFrame : Obligations.TickFrame := by
  intro s t h
  have hconfig : t.config = s.config := execTick_keeps_config h
  obtain ⟨hbuf, hlength, hmark, hpending⟩ := execTick_keeps h
  refine ⟨hconfig, hlength, cell_congr hconfig hbuf, hmark, hpending, execTick_keeps_flags h, fun hp => ?_⟩
  obtain rfl := execTick_clockEdge h hp
  exact ⟨rfl, rfl, rfl, rfl⟩

end Sys2Proof.Machine

/-! ## The producer and the cursor (10_state R26) -/

namespace Sys2Proof.Machine

open Sys2Proof

/-- `s` with another cursor. -/
def State.withCursor (phase : HalfPhase) (level : Bit) (byte : Nat) (bit : BitVec 3) (s : State) : State :=
  { s with halfPhase := phase, previousLevel := level, byteIndex := byte, bitIndex := bit }

section
variable {s t : State} (phase : HalfPhase) (level : Bit) (byte : Nat) (bit : BitVec 3)

/-- ENQUEUE tests the fault record, the count and `busy`, none of which is the cursor's, and copies past it. -/
theorem execEnqueue_withCursor {data : List Byte} (h : execEnqueue data s = .next t) :
    execEnqueue data (s.withCursor phase level byte bit) = .next (t.withCursor phase level byte bit) := by
  obtain ⟨hf, ⟨hc, rfl⟩ | ⟨hc, hb, rfl⟩ | ⟨hc, hb, rfl⟩⟩ := execEnqueue_cases h
  · exact execEnqueue_of_illegal hf hc
  · exact execEnqueue_of_busy hf hc hb
  · exact execEnqueue_of_accepted hf hc hb

/-- The status word is made of the line and the two flags (10_state R35). -/
theorem execStatus_withCursor (h : execStatus s = .next t) :
    execStatus (s.withCursor phase level byte bit) = .next (t.withCursor phase level byte bit) := by
  obtain ⟨hf, rfl⟩ := execStatus_cases h
  exact execStatus_of_unfaulted hf

end

theorem execStatus_sameCursor {s t : State} (h : execStatus s = .next t) : SameCursor s t := by
  obtain ⟨-, rfl⟩ := execStatus_cases h
  exact (sameBlock_respond _ s).sameCursor

/-- Settles O34: ENQUEUE and STATUS leave the cursor and commute with replacing it. -/
theorem producerNeverTouchesTheCursor : Obligations.ProducerNeverTouchesTheCursor := by
  rintro s t i phase level byte bit (⟨data, rfl⟩ | rfl) h
  · obtain ⟨hcursor, -⟩ := enqueueFrame s t data h
    exact ⟨hcursor, execEnqueue_withCursor phase level byte bit h⟩
  · exact ⟨execStatus_sameCursor h, execStatus_withCursor phase level byte bit h⟩

end Sys2Proof.Machine

/-! ## ENQUEUE's answer (30_encoding R73) -/

namespace Sys2Proof.Machine

open Sys2Proof

theorem isAccepted_responseByte (r : EnqueueResult) : isAccepted (responseByte r) = true ↔ r = .accepted := by
  cases r <;> decide

/-- Settles O16: of the three branches of ENQUEUE the accepting one is that of an idle block and a legal count. -/
theorem enqueueSucceedsExactlyWhenIdleAndLegal : Obligations.EnqueueSucceedsExactlyWhenIdleAndLegal := by
  intro s t data h
  obtain ⟨-, ⟨hc, rfl⟩ | ⟨-, hb, rfl⟩ | ⟨hc, hb, rfl⟩⟩ := execEnqueue_cases h <;>
    refine ⟨_, rfl, (isAccepted_responseByte _).trans ?_⟩
  · exact iff_of_false (by decide) fun ha => hc ha.2
  · exact iff_of_false (by decide) fun ha => absurd (hb.symm.trans ha.1) (by decide)
  · exact iff_of_true rfl ⟨(BitVec.eq_zero_or_eq_one _).resolve_right hb, hc⟩

end Sys2Proof.Machine

/-! ## What every operation needs and keeps, and what every step keeps -/

namespace Sys2Proof.Machine

open Sys2Proof

variable {s t : State} {i : Instr}

theorem exec_unfaulted (h : exec i s = .next t) : s.faultRecord = none := by
  cases i with
  | enqueue data => exact (execEnqueue_cases h).1
  | status => exact (execStatus_cases h).1
  | tick => exact (execTick_cases h).1
  | reset => exact (execReset_cases h).1

theorem exec_keeps_pending (h : exec i s = .next t) : t.pending = s.pending := by
  cases i with
  | enqueue data =>
    obtain ⟨-, answer, rfl⟩ | ⟨-, -, answer, rfl⟩ := execEnqueue_rejected_or_accepted h <;> rfl
  | status =>
    obtain ⟨-, rfl⟩ := execStatus_cases h
    rfl
  | tick =>
    obtain ⟨-, -, -, hpending⟩ := execTick_keeps h
    exact hpending
  | reset =>
    obtain ⟨-, rfl⟩ := execReset_cases h
    rfl

/-- While busy, ENQUEUE and STATUS only answer (40_transmit_buffer R103, R105). -/
theorem exec_sameBlock_of_busy (hb : s.busy = 1#1) (htick : i ≠ .tick) (hreset : i ≠ .reset)
    (h : exec i s = .next t) : SameBlock s t := by
  cases i with
  | enqueue data =>
    obtain ⟨-, answer, rfl⟩ | ⟨-, hidle, -⟩ := execEnqueue_rejected_or_accepted h
    · exact sameBlock_respond answer s
    · exact absurd (hb.symm.trans hidle) (by decide)
  | status =>
    obtain ⟨-, rfl⟩ := execStatus_cases h
    exact sameBlock_respond _ s
  | tick => exact absurd rfl htick
  | reset => exact absurd rfl hreset

theorem sameBlock_issue (s : State) (new : List Issue) : SameBlock s (s.issue new) := by
  constructor <;> rfl

/-- A step waits, refuses or runs an operation, so what depends on the block and the fault record alone and is kept by
every operation is kept by every step. -/
theorem step_keeps_of_exec_keeps {P : State → Prop}
    (block : ∀ s t, SameBlock s t → t.faultRecord = s.faultRecord → P s → P t)
    (operation : ∀ i s t, P s → exec i s = .next t → P t) {s t : State} (hs : P s) (h : step s = .next t) : P t := by
  obtain ⟨-, rfl⟩ | ⟨-, reason, rest, rfl⟩ | ⟨-, i, rest, hexec⟩ := step_cases h
  · exact hs
  · exact block s _ ((sameBlock_setPending rest s).trans (sameBlock_refuse reason _)) rfl hs
  · exact operation i _ t (block s _ (sameBlock_setPending rest s) rfl hs) hexec

end Sys2Proof.Machine

/-! ## The buffer's ownership and its form (20_memory R50, R60) -/

namespace Sys2Proof.Machine

open Sys2Proof

/-- Settles O33: TICK never writes the buffer or the length, and the producer's operations only answer while busy. -/
theorem ownedBufferIsNeverMutated : Obligations.OwnedBufferIsNeverMutated := by
  intro s t i h hb hreset
  by_cases htick : i = .tick
  · subst htick
    obtain ⟨hbuf, hlength, -⟩ := execTick_keeps h
    exact ⟨hlength, cell_congr (execTick_keeps_config h) hbuf⟩
  · have same := exec_sameBlock_of_busy hb htick hreset h
    exact ⟨same.length, same.cell⟩

theorem State.BufferForm.congr {s t : State} (hs : s.BufferForm) (hc : t.config = s.config) (hb : t.buf = s.buf) :
    t.BufferForm where
  canonical := by rw [hc, hb]; exact hs.canonical
  in_range := by rw [hc, hb]; exact hs.in_range

/-- The copy loop writes cells below a legal count only. -/
theorem acceptPacket_bufferForm {s : State} {data : List Byte} (hs : s.BufferForm)
    (hc : countLegal s.config data.length) : (acceptPacket data s).BufferForm where
  canonical := Memory.wf_writeBytes 0 data hs.canonical
  in_range e he := by
    show e.1 < s.config.capacity
    obtain ⟨-, hcap⟩ := hc
    rcases Memory.mem_writeBytes he with ⟨-, hwritten⟩ | hlisted
    · omega
    · exact hs.in_range e hlisted

theorem resetFields_bufferForm (s : State) : (resetFields s).BufferForm :=
  ⟨Memory.wf_nil _, fun _ he => nomatch he⟩

theorem exec_keeps_bufferForm {s t : State} {i : Instr} (hs : s.BufferForm) (h : exec i s = .next t) :
    t.BufferForm := by
  cases i with
  | enqueue data =>
    obtain ⟨-, answer, rfl⟩ | ⟨hc, -, answer, rfl⟩ := execEnqueue_rejected_or_accepted h
    · exact hs.congr rfl rfl
    · exact (acceptPacket_bufferForm hs hc).congr rfl rfl
  | status =>
    obtain ⟨-, rfl⟩ := execStatus_cases h
    exact hs.congr rfl rfl
  | tick =>
    obtain ⟨hbuf, -⟩ := execTick_keeps h
    exact hs.congr (execTick_keeps_config h) hbuf
  | reset =>
    obtain ⟨-, rfl⟩ := execReset_cases h
    exact (resetFields_bufferForm s).congr rfl rfl

/-- Settles O41: every operation keeps the form, an accepted ENQUEUE because its count is at most `C`. -/
theorem stepKeepsTheBufferForm : Obligations.StepKeepsTheBufferForm := fun _ _ hs h =>
  step_keeps_of_exec_keeps (P := State.BufferForm) (fun _ _ same _ hs => hs.congr same.config same.buf)
    (fun _ _ _ hs he => exec_keeps_bufferForm hs he) hs h

end Sys2Proof.Machine

/-! ## The decoder reads what the encoder wrote (30_encoding R74) -/

namespace Sys2Proof

/-- ENQUEUE's count names its payload, whatever bytes follow. -/
theorem decode_encode_append (i : Instr) (rest : List Byte) (hi : i.WellFormed) :
    decode (encode i ++ rest) = .ok (i, (encode i).length) := by
  cases i with
  | enqueue data =>
    have count : (BitVec.ofNat 8 data.length).toNat = data.length :=
      Nat.mod_eq_of_lt (Nat.lt_succ_of_le hi)
    have op : (0x01#8 : Byte).extractLsb' 0 3 = 0b001#3 := by decide
    have rsv : (0x01#8 : Byte).extractLsb' 3 5 = 0b00000#5 := by decide
    rw [encode_enqueue]
    simp [decode, decodeHeader, op, rsv, count, Nat.add_comm 2]
  | status => rfl
  | tick => rfl
  | reset => rfl

theorem decode_encode {i : Instr} (hi : i.WellFormed) : decode (encode i) = .ok (i, (encode i).length) := by
  simpa using decode_encode_append i [] hi

end Sys2Proof

/-! ## Operations issued one at a time (20_memory R56) -/

namespace Sys2Proof.Machine

open Sys2Proof

theorem pendingAfter_length (issue : Issue) (rest : List Issue) :
    pendingAfter issue issue.bytes.length rest = rest := by
  simp [pendingAfter]

theorem fetch_of_pending_nil {s : State} (hp : s.pending = []) : fetch s = .idle := by
  simp [fetch, hp]

/-- A well-formed operation that its legal issuer issues to an unfaulted block is the one taken. -/
theorem fetch_of_wellIssued {s : State} {i : Instr} {rest : List Issue} (hf : s.faultRecord = none)
    (hi : i.WellFormed) (hp : s.pending = ⟨issuer i, encode i⟩ :: rest) : fetch s = .run i rest := by
  have taken := pendingAfter_length ⟨issuer i, encode i⟩ rest
  simp [fetch, hp, hf, decode_encode hi, taken]

theorem State.issue_nil (s : State) : s.issue [] = s := by
  simp [State.issue]

theorem State.clearPending_issue (s : State) (new : List Issue) (hp : s.pending = []) :
    { s.issue new with pending := [] } = s := by
  cases s
  cases hp
  rfl

theorem fetch_issueOperation_some {s : State} {i : Instr} (hp : s.pending = []) (hf : s.faultRecord = none)
    (hi : i.WellFormed) : fetch (s.issue (issueOperation (some i))) = .run i [] :=
  fetch_of_wellIssued hf hi (by simp [issueOperation, hp])

theorem fetch_issueOperation_none {s : State} (hp : s.pending = []) :
    fetch (s.issue (issueOperation none)) = .idle :=
  fetch_of_pending_nil (by simp [issueOperation, hp])

theorem step_issueOperation_none {s : State} (hp : s.pending = []) :
    step (s.issue (issueOperation none)) = .next s := by
  rw [step, fetch_issueOperation_none hp]
  exact congrArg _ (State.issue_nil s)

theorem step_issueOperation_some {s : State} {i : Instr} (hp : s.pending = []) (hf : s.faultRecord = none)
    (hi : i.WellFormed) : step (s.issue (issueOperation (some i))) = exec i s := by
  rw [step, fetch_issueOperation_some hp hf hi]
  exact congrArg (exec i) (State.clearPending_issue s _ hp)

/-- Where each operation leaves nothing pending, the block never has anything but the operation just issued. -/
theorem pending_nil_of_operations {operations : Nat → Option Instr} {run : Nat → State} (start : (run 0).pending = [])
    (carried : ∀ k i, operations k = some i → exec i (run k) = .next (run (k + 1)))
    (waits : ∀ k, operations k = none → run (k + 1) = run k) (k : Nat) : (run k).pending = [] := by
  induction k with
  | zero => exact start
  | succ k ih =>
    cases hop : operations k with
    | none => rw [waits k hop, ih]
    | some i => rw [exec_keeps_pending (carried k i hop), ih]

/-- Settles O55: with nothing else pending, the operation issued at a step is the one the step carries out. -/
theorem enabledOperationsFormAnExecution : Obligations.EnabledOperationsFormAnExecution := by
  intro operations run start enabled waits
  have empty := pending_nil_of_operations start (fun k i hop => (enabled k i hop).2) waits
  constructor
  · intro k
    cases hop : operations k with
    | none => simp only [hop, step_issueOperation_none (empty k), waits k hop]
    | some i =>
      obtain ⟨hi, hexec⟩ := enabled k i hop
      simp only [hop, step_issueOperation_some (empty k) (exec_unfaulted hexec) hi, hexec]
  · intro k
    cases hop : operations k with
    | none => simp only [operationAt, hop, fetch_issueOperation_none (empty k)]
    | some i =>
      obtain ⟨hi, hexec⟩ := enabled k i hop
      simp only [operationAt, hop, fetch_issueOperation_some (empty k) (exec_unfaulted hexec) hi]

end Sys2Proof.Machine

/-! ## The bytes of a packet in flight stay readable (40_transmit_buffer R102, R104), and then no read faults
(42_encoder R142) -/

namespace Sys2Proof.Machine

open Sys2Proof

@[simp] theorem advanced_faultRecord (b : Byte) (s : State) : (advanced b s).faultRecord = s.faultRecord := by
  simp [advanced]

@[simp] theorem completed_faultRecord (b : Byte) (s : State) : (completed b s).faultRecord = s.faultRecord := by
  simp [completed]

/-- An operation that leaves the packet alone and does not take the buffer keeps its bytes readable. -/
theorem State.PayloadReadable.of_frame {s t : State} (hs : s.PayloadReadable) (hc : t.config = s.config)
    (hbuf : t.buf = s.buf) (hn : t.length = s.length) (hb : t.busy = 1#1 → s.busy = 1#1) : t.PayloadReadable := by
  intro hbusy j hj
  rw [hc, hn] at hj
  rw [hc, cell_congr hc hbuf]
  exact hs (hb hbusy) j hj

theorem SameBlock.payloadReadable {s t : State} (h : SameBlock s t) (hs : s.PayloadReadable) : t.PayloadReadable :=
  hs.of_frame h.config h.buf h.length fun hb => h.busy ▸ hb

/-- The copy loop has written every cell below the count. -/
theorem acceptPacket_payloadReadable {s : State} {data : List Byte} (hc : countLegal s.config data.length) :
    (acceptPacket data s).PayloadReadable := by
  intro _ j hj
  obtain ⟨-, hcap⟩ := hc
  have inside : j < data.length := Nat.lt_of_add_lt_add_right hj
  refine ⟨inside.trans_le hcap, ?_⟩
  rw [cell_acceptPacket, cell_storePayload_inside (List.getElem?_eq_getElem inside)]
  exact Option.some_ne_none _

theorem execTick_busy {s t : State} (h : execTick s = .next t) (hb : t.busy = 1#1) : s.busy = 1#1 := by
  obtain ⟨-, -, ⟨-, rfl⟩ | ⟨-, r, -, rfl⟩ | ⟨-, b, -, -, rfl⟩ | ⟨-, b, -, -, rfl⟩⟩ := execTick_cases h
  · exact hb
  · exact hb
  · simpa using hb
  · exact absurd hb (by simp)

theorem exec_keeps_payloadReadable {s t : State} {i : Instr} (hs : s.PayloadReadable) (h : exec i s = .next t) :
    t.PayloadReadable := by
  cases i with
  | enqueue data =>
    obtain ⟨-, answer, rfl⟩ | ⟨hc, -, answer, rfl⟩ := execEnqueue_rejected_or_accepted h
    · exact (sameBlock_respond answer s).payloadReadable hs
    · exact (sameBlock_respond answer _).payloadReadable (acceptPacket_payloadReadable hc)
  | status =>
    obtain ⟨-, rfl⟩ := execStatus_cases h
    exact (sameBlock_respond _ s).payloadReadable hs
  | tick =>
    obtain ⟨hbuf, hlength, -⟩ := execTick_keeps h
    exact hs.of_frame (execTick_keeps_config h) hbuf hlength (execTick_busy h)
  | reset =>
    obtain ⟨-, rfl⟩ := execReset_cases h
    exact fun hb => absurd hb (by simp)

/-- What a block without the trailing byte has along every run from RESET: the invariants, a readable packet, and no
fault. -/
structure State.FaultFree (s : State) : Prop where
  exact_count : s.config.trailingByte = false
  inv : s.Inv
  payload : s.PayloadReadable
  unfaulted : s.faultRecord = none

theorem State.FaultFree.of_sameBlock {s t : State} (hs : s.FaultFree) (h : SameBlock s t)
    (hf : t.faultRecord = s.faultRecord) : t.FaultFree where
  exact_count := by rw [h.config, hs.exact_count]
  inv := h.inv hs.inv
  payload := h.payloadReadable hs.payload
  unfaulted := hf.trans hs.unfaulted

/-- The byte under the cursor of an armed block is one that ENQUEUE copied. -/
theorem State.FaultFree.memRead_ne_error {s : State} (hs : s.FaultFree) (ha : s.tickEn = 1#1) (r : FaultRecord) :
    memRead s s.byteIndex ≠ .error r := by
  have hb : s.busy = 1#1 := hs.inv.busy_is_armed.trans ha
  obtain ⟨hcap, hwritten⟩ := hs.payload hb s.byteIndex (by simpa [hs.exact_count] using hs.inv.flight_byte_index hb)
  obtain ⟨hout, -⟩ | ⟨-, hnone, -⟩ | ⟨-, b, -, hread⟩ := memRead_cases s s.byteIndex
  · omega
  · exact absurd hnone hwritten
  · simp [hread]

theorem exec_keeps_unfaulted {s t : State} {i : Instr} (hs : s.FaultFree) (h : exec i s = .next t) :
    t.faultRecord = none := by
  cases i with
  | enqueue data =>
    obtain ⟨-, answer, rfl⟩ | ⟨-, -, answer, rfl⟩ := execEnqueue_rejected_or_accepted h <;> exact hs.unfaulted
  | status =>
    obtain ⟨hf, rfl⟩ := execStatus_cases h
    exact hf
  | tick =>
    obtain ⟨hf, ha, ⟨-, rfl⟩ | ⟨-, r, hr, rfl⟩ | ⟨-, b, -, -, rfl⟩ | ⟨-, b, -, -, rfl⟩⟩ := execTick_cases h
    · exact hf
    · exact absurd hr (hs.memRead_ne_error ha r)
    · simpa using hf
    · simpa using hf
  | reset =>
    obtain ⟨hf, rfl⟩ := execReset_cases h
    exact hf

theorem exec_keeps_faultFree {s t : State} {i : Instr} (hs : s.FaultFree) (h : exec i s = .next t) : t.FaultFree where
  exact_count := by rw [exec_keeps_config h, hs.exact_count]
  inv := exec_keeps_inv hs.inv h
  payload := exec_keeps_payloadReadable hs.payload h
  unfaulted := exec_keeps_unfaulted hs h

theorem step_keeps_faultFree {s t : State} (hs : s.FaultFree) (h : step s = .next t) : t.FaultFree :=
  step_keeps_of_exec_keeps (P := State.FaultFree) (fun _ _ same hf hs => hs.of_sameBlock same hf)
    (fun _ _ _ hs he => exec_keeps_faultFree hs he) hs h

theorem IsExecution.faultFree {issued : Schedule} {run : Nat → State} (h : IsExecution issued run)
    (start : (run 0).FaultFree) (j : Nat) : (run j).FaultFree :=
  h.always (fun _ new hs => hs.of_sameBlock (sameBlock_issue _ new) rfl) (fun _ _ => step_keeps_faultFree) 0 start j
    (Nat.zero_le j)

end Sys2Proof.Machine

/-! ## The ticks left of a packet in flight: every TICK takes one off, and only TICKs and RESET change them
(42_encoder R147) -/

namespace Sys2Proof.Machine

open Sys2Proof

theorem ticksLeft_of_disarmed {s : State} (h : s.tickEn = 0#1) : ticksLeft s = 0 := by
  simp [ticksLeft, h]

theorem SameBlock.ticksLeft {s t : State} (h : SameBlock s t) : Machine.ticksLeft t = Machine.ticksLeft s := by
  simp only [Machine.ticksLeft, h.tickEn, h.length, h.byteIndex, h.bitIndex, h.halfPhase]

/-- The bits left of a packet in flight, the one under the cursor among them. -/
def State.bitsLeft (s : State) : Nat := 7 * (s.length - s.byteIndex) - (6 - s.bitIndex.toNat)

theorem ticksLeft_of_clockEdge {s : State} (ha : s.tickEn = 1#1) (hp : s.halfPhase = .clockEdge) :
    ticksLeft s = 2 * s.bitsLeft := by
  simp [ticksLeft, State.bitsLeft, ha, hp]

theorem ticksLeft_of_dataEdge {s : State} (ha : s.tickEn = 1#1) (hp : s.halfPhase = .dataEdge) :
    ticksLeft s = 2 * s.bitsLeft - 1 := by
  simp [ticksLeft, State.bitsLeft, ha, hp]

theorem State.Inv.bitsLeft_pos {s : State} (hs : s.Inv) (ha : s.tickEn = 1#1) : 0 < s.bitsLeft := by
  have inside := hs.flight_byte_index (hs.busy_is_armed.trans ha)
  unfold State.bitsLeft
  omega

/-- The advance of the cursor leaves one bit less, in the same byte or at the top of the next (42_encoder R144). -/
theorem advanced_bitsLeft {s : State} (b : Byte) (hs : s.Inv) (ha : s.tickEn = 1#1) :
    (advanced b s).bitsLeft + 1 = s.bitsLeft := by
  have inside := hs.flight_byte_index (hs.busy_is_armed.trans ha)
  have range := hs.bit_index_range
  unfold State.bitsLeft
  rw [advanced_length, advanced_byteIndex, advanced_bitIndex, State.nextByteIndex]
  by_cases hk : s.bitIndex = 0#3
  · simp only [hk, if_true, BitVec.toNat_ofNat]
    omega
  · have counted : ∀ k : BitVec 3, k ≠ 0#3 → (k - 1#3).toNat + 1 = k.toNat := by decide
    have := counted s.bitIndex hk
    simp only [hk, if_false]
    omega

/-- A TICK that does not fault takes one off the ticks left, or ends the packet. -/
theorem execTick_ticksLeft_lt {s t : State} (hs : s.Inv) (h : execTick s = .next t) (hf : t.faultRecord = none) :
    ticksLeft t < ticksLeft s := by
  obtain ⟨-, ha, ⟨hp, rfl⟩ | ⟨-, r, -, rfl⟩ | ⟨hp, b, -, -, rfl⟩ | ⟨hp, b, -, -, rfl⟩⟩ := execTick_cases h
  all_goals have bits := hs.bitsLeft_pos ha
  · have after : ticksLeft (clockEdgeStep s) = 2 * s.bitsLeft - 1 := ticksLeft_of_dataEdge ha rfl
    rw [(sameBlock_respond none _).ticksLeft, after, ticksLeft_of_clockEdge ha hp]
    omega
  · exact absurd hf (by simp)
  · have after := ticksLeft_of_clockEdge (s := advanced b s) (by simpa using ha) rfl
    have := advanced_bitsLeft b hs ha
    rw [(sameBlock_respond none _).ticksLeft, after, ticksLeft_of_dataEdge ha hp]
    omega
  · rw [ticksLeft_of_disarmed (by simp), ticksLeft_of_dataEdge ha hp]
    omega

/-- While armed no operation adds ticks, and a TICK takes one off. -/
theorem exec_ticksLeft {s t : State} {i : Instr} (hs : s.FaultFree) (ha : s.tickEn = 1#1) (h : exec i s = .next t) :
    ticksLeft t ≤ ticksLeft s ∧ (i = .tick → ticksLeft t < ticksLeft s) := by
  by_cases htick : i = .tick
  · subst htick
    have lt := execTick_ticksLeft_lt hs.inv h (exec_keeps_unfaulted hs h)
    exact ⟨lt.le, fun _ => lt⟩
  refine ⟨?_, fun hi => absurd hi htick⟩
  by_cases hreset : i = .reset
  · subst hreset
    obtain ⟨-, rfl⟩ := execReset_cases h
    rw [ticksLeft_of_disarmed (by simp)]
    exact Nat.zero_le _
  · exact (exec_sameBlock_of_busy (hs.inv.busy_is_armed.trans ha) htick hreset h).ticksLeft.le

/-- The same of one step of an execution, whether the block waits, refuses a transaction or runs an operation. -/
theorem IsExecution.ticksLeft_succ {issued : Schedule} {run : Nat → State} (h : IsExecution issued run) {k : Nat}
    (hs : (run k).FaultFree) (ha : (run k).tickEn = 1#1) :
    ticksLeft (run (k + 1)) ≤ ticksLeft (run k) ∧
      (operationAt issued run k = some .tick → ticksLeft (run (k + 1)) < ticksLeft (run k)) := by
  obtain ⟨hop, -, -, hnext⟩ | ⟨hop, -, -, -, reason, left, -, -, hnext⟩ | ⟨i, hop, -, -, -, left, -, -, -, hexec⟩ :=
    h.step_cases k
  · simp [hop, hnext]
  · have same := (sameBlock_setPending left (run k)).trans (sameBlock_refuse reason _)
    simp [hop, hnext, same.ticksLeft]
  · have same := sameBlock_setPending left (run k)
    have ticks := exec_ticksLeft (hs.of_sameBlock same rfl) ha hexec
    rw [same.ticksLeft] at ticks
    simpa [hop] using ticks

end Sys2Proof.Machine

/-! ## Under a fair tick source a packet comes to its end (20_memory R62, 41_tick_source R127) -/

namespace Sys2Proof.Machine

open Sys2Proof

variable {issued : Schedule} {run : Nat → State}

/-- While the block stays armed the ticks left never grow. -/
theorem IsExecution.ticksLeft_le (h : IsExecution issued run) (sound : ∀ j, (run j).FaultFree) {k : Nat}
    (armed : ∀ j, k ≤ j → (run j).tickEn = 1#1) (j : Nat) (hj : k ≤ j) :
    ticksLeft (run j) ≤ ticksLeft (run k) := by
  induction j, hj using Nat.le_induction with
  | base => exact le_rfl
  | succ j hj ih => exact (h.ticksLeft_succ (sound j) (armed j hj)).1.trans ih

/-- A fair tick source never leaves the block armed for ever: each TICK it delivers takes one off the ticks left. -/
theorem IsExecution.not_armed_forever (h : IsExecution issued run) (fair : TickFair issued run)
    (sound : ∀ j, (run j).FaultFree) (k : Nat) : ¬ ∀ j, k ≤ j → (run j).tickEn = 1#1 := by
  induction hn : ticksLeft (run k) using Nat.strong_induction_on generalizing k with
  | _ n ih =>
    intro armed
    obtain ⟨j, hj, tick⟩ := fair k fun j hj => ⟨armed j hj, (sound j).unfaulted⟩
    have fewer : ticksLeft (run (j + 1)) < n := by
      have := (h.ticksLeft_succ (sound j) (armed j hj)).2 tick
      have := h.ticksLeft_le sound armed j hj
      omega
    exact ih _ fewer (j + 1) rfl fun l hl => armed l (by omega)

/-- Settles O58: an armed block that was never disarmed again would be armed for ever. -/
theorem fairExecutionEndsEveryPacket : Obligations.FairExecutionEndsEveryPacket := by
  intro issued run h fair hexact hinv hpayload hfault k armed
  have sound := h.faultFree ⟨hexact, hinv, hpayload, hfault⟩
  by_contra! never
  refine h.not_armed_forever fair sound k fun j hj => ?_
  rcases hj.eq_or_lt with rfl | hlt
  · exact armed
  · refine (BitVec.eq_zero_or_eq_one _).resolve_left fun disarmed => ?_
    exact never j hlt disarmed ((sound j).inv.busy_is_armed.trans disarmed)

end Sys2Proof.Machine

/-! ## The decoder's answer to every byte string (30_encoding R74, R75) -/

namespace Sys2Proof

/-- Settles O2: it is `decode_encode_append`. -/
theorem decodeOfEncodeIsTheOperation : Obligations.DecodeOfEncodeIsTheOperation := decode_encode_append

/-- Settles O1: the words are the encodings of their operations. -/
theorem sampleWordsDecode : Obligations.SampleWordsDecode :=
  ⟨decode_encode (i := .enqueue [0xC3#8, 0x3C#8]) (by decide), decode_encode (i := .status) trivial,
    decode_encode (i := .tick) trivial, decode_encode (i := .reset) trivial⟩

theorem decode_of_length_lt_two {bytes : List Byte} (h : bytes.length < 2) : decode bytes = .error .truncated := by
  match bytes, h with
  | [], _ => rfl
  | [_], _ => rfl

section
variable {byte0 byte1 : Byte} {payload : List Byte}

theorem rsvField_headerOf_eq_zero_iff : rsvField (headerOf byte0 byte1) = 0b00000#5 ↔ byte0.toNat / 8 = 0 := by
  have := byte0.isLt
  rw [← BitVec.toNat_inj]
  simp [Nat.shiftRight_eq_div_pow]
  omega

theorem opField_reserved_iff :
    (opField (headerOf byte0 byte1) = 0b000#3 ∨ opField (headerOf byte0 byte1) = 0b100#3 ∨
      opField (headerOf byte0 byte1) = 0b101#3 ∨ opField (headerOf byte0 byte1) = 0b110#3) ↔
    byte0.toNat % 8 ∈ [0, 4, 5, 6] := by
  simp [← BitVec.toNat_inj]

theorem decode_reservedOp (h : byte0.toNat % 8 ∈ [0, 4, 5, 6]) :
    decode (byte0 :: byte1 :: payload) = .error .reservedOp :=
  if_pos (opField_reserved_iff.mpr h)

theorem decode_reservedBits (h : byte0.toNat % 8 ∉ [0, 4, 5, 6]) (hr : byte0.toNat / 8 ≠ 0) :
    decode (byte0 :: byte1 :: payload) = .error .reservedBits :=
  (if_neg (opField_reserved_iff.not.mpr h)).trans (if_pos (rsvField_headerOf_eq_zero_iff.not.mpr hr))

/-- What the tests on byte 0 let through: the four operation codes of R71. -/
theorem byte0_cases (h : byte0.toNat % 8 ∉ [0, 4, 5, 6]) (hr : byte0.toNat / 8 = 0) :
    byte0 = 0b00000001#8 ∨ byte0 ∈ [0b00000010#8, 0b00000011#8, 0b00000111#8] := by
  simp [← BitVec.toNat_inj] at h ⊢
  omega

theorem decode_enqueue_truncated (h : payload.length < byte1.toNat) :
    decode (0b00000001#8 :: byte1 :: payload) = .error .truncated := by
  simp [decode, decodeHeader, h]

theorem decode_enqueue (h : byte1.toNat ≤ payload.length) :
    decode (0b00000001#8 :: byte1 :: payload) = .ok (.enqueue (payload.take byte1.toNat), 2 + byte1.toNat) := by
  simp [decode, decodeHeader, h]

theorem decode_count_reserved (h : byte0 ∈ [0b00000010#8, 0b00000011#8, 0b00000111#8]) (hc : byte1 ≠ 0x00#8) :
    decode (byte0 :: byte1 :: payload) = .error .reservedBits := by
  simp only [List.mem_cons, List.not_mem_nil, or_false] at h
  obtain rfl | rfl | rfl := h <;> simp [decode, decodeHeader, hc]

theorem decode_status : decode (0b00000010#8 :: 0x00#8 :: payload) = .ok (.status, 2) := rfl
theorem decode_tick : decode (0b00000011#8 :: 0x00#8 :: payload) = .ok (.tick, 2) := rfl
theorem decode_reset : decode (0b00000111#8 :: 0x00#8 :: payload) = .ok (.reset, 2) := rfl
end

/-- Settles O5: each clause is the lemma of its test. -/
theorem decoderAnswersEveryByteString : Obligations.DecoderAnswersEveryByteString := by
  refine ⟨fun _ => decode_of_length_lt_two, fun byte0 byte1 payload =>
    ⟨decode_reservedOp, decode_reservedBits, ?_, ?_, decode_count_reserved, ?_, ?_, ?_⟩⟩
  · rintro rfl
    exact decode_enqueue_truncated
  · rintro rfl
    exact decode_enqueue
  · rintro rfl rfl
    exact decode_status
  · rintro rfl rfl
    exact decode_tick
  · rintro rfl rfl
    exact decode_reset

/-- An ENQUEUE that is read is its encoding: byte 1 counts the payload bytes taken. -/
theorem encode_enqueue_take {byte1 : Byte} {payload : List Byte} (h : byte1.toNat ≤ payload.length) :
    encode (.enqueue (payload.take byte1.toNat)) = 0b00000001#8 :: byte1 :: payload.take byte1.toNat := by
  rw [encode_enqueue, List.length_take_of_le h, BitVec.ofNat_toNat, BitVec.setWidth_eq]

/-- What is read is the encoding of a well-formed operation, followed by the bytes left. -/
theorem eq_encode_append_of_decode {bytes : List Byte} {i : Instr} {n : Nat} (h : decode bytes = .ok (i, n)) :
    i.WellFormed ∧ ∃ rest, bytes = encode i ++ rest ∧ n = (encode i).length := by
  match bytes with
  | [] => exact nomatch h
  | [_] => exact nomatch h
  | byte0 :: byte1 :: payload =>
    by_cases hop : byte0.toNat % 8 ∈ [0, 4, 5, 6]
    · exact nomatch (decode_reservedOp hop).symm.trans h
    by_cases hrsv : byte0.toNat / 8 = 0
    swap
    · exact nomatch (decode_reservedBits hop hrsv).symm.trans h
    obtain rfl | hcode := byte0_cases hop hrsv
    · by_cases hcount : byte1.toNat ≤ payload.length
      · cases (decode_enqueue hcount).symm.trans h
        refine ⟨?_, payload.drop byte1.toNat, ?_, ?_⟩
        · exact (List.length_take_le _ _).trans (Nat.le_of_lt_succ byte1.isLt)
        · simp [encode_enqueue_take hcount]
        · simp [encode_enqueue_take hcount, hcount]
          omega
      · exact nomatch (decode_enqueue_truncated (Nat.lt_of_not_le hcount)).symm.trans h
    · by_cases hcount : byte1 = 0x00#8
      · subst hcount
        simp only [List.mem_cons, List.not_mem_nil, or_false] at hcode
        obtain rfl | rfl | rfl := hcode
        · cases decode_status.symm.trans h
          exact ⟨trivial, payload, rfl, rfl⟩
        · cases decode_tick.symm.trans h
          exact ⟨trivial, payload, rfl, rfl⟩
        · cases decode_reset.symm.trans h
          exact ⟨trivial, payload, rfl, rfl⟩
      · exact nomatch (decode_count_reserved hcode hcount).symm.trans h

/-- Settles O3: the bytes read are the front of the string. -/
theorem decodedBytesAreTheEncoding : Obligations.DecodedBytesAreTheEncoding := by
  intro bytes i n h
  obtain ⟨hi, rest, rfl, rfl⟩ := eq_encode_append_of_decode h
  exact ⟨hi, by simp, by simp⟩

/-! ### The opcode table -/

/-- Two rows that one header matches agree where both masks are set. -/
theorem patterns_agree_of_matchesRow {r₁ r₂ : OpcodeRow} {h : BitVec 16} (h₁ : matchesRow r₁ h = true)
    (h₂ : matchesRow r₂ h = true) : r₁.pattern &&& r₂.mask = r₂.pattern &&& r₁.mask := by
  rw [matchesRow, beq_iff_eq] at h₁ h₂
  rw [← h₁, ← h₂, BitVec.and_assoc, BitVec.and_assoc, BitVec.and_comm r₁.mask]

theorem opcodeTable_rows_disjoint :
    ∀ r₁ ∈ opcodeTable, ∀ r₂ ∈ opcodeTable, r₁.pattern &&& r₂.mask = r₂.pattern &&& r₁.mask → r₁ = r₂ := by
  decide

theorem headerMatchesRow (i : Instr) : Laws.HeaderMatchesRow.Statement i := by
  cases i with
  | enqueue data => exact Laws.HeaderMatchesRow.enqueue data
  | status => exact Laws.HeaderMatchesRow.status
  | tick => exact Laws.HeaderMatchesRow.tick
  | reset => exact Laws.HeaderMatchesRow.reset

/-- A header is the word of its two bytes. -/
theorem headerOf_headerBytes (h : BitVec 16) : headerOf (h.extractLsb' 0 8) (h.extractLsb' 8 8) = h :=
  (BitVec.extractLsb'_append_extractLsb'_eq_extractLsb' (x := h) (start₁ := 0) (len₁ := 8) rfl).trans
    BitVec.extractLsb'_eq_self

/-- The header of what is read is the operation's header word. -/
theorem headerOf_eq_headerWord_of_decode {byte0 byte1 : Byte} {payload : List Byte} {i : Instr} {n : Nat}
    (h : decode (byte0 :: byte1 :: payload) = .ok (i, n)) : headerOf byte0 byte1 = headerWord i := by
  obtain ⟨-, rest, hbytes, -⟩ := eq_encode_append_of_decode h
  obtain ⟨rfl, rfl, -⟩ : byte0 = _ ∧ byte1 = _ ∧ payload = payloadOf i ++ rest := by
    simpa [encode, headerBytes] using hbytes
  exact headerOf_headerBytes _

/-- Settles O4: what is read carries its operation's header word, and no two rows of the table fit together. -/
theorem headerBelongsToAtMostOneRow : Obligations.HeaderBelongsToAtMostOneRow := by
  intro byte0 byte1 payload
  have row_of_read : ∀ i n, decode (byte0 :: byte1 :: payload) = .ok (i, n) →
      ∃ r ∈ opcodeTable, matchesRow r (headerOf byte0 byte1) = true ∧ r.mnemonic = mnemonicOf i := by
    intro i n h
    obtain ⟨r, hr, hname, hmatch⟩ := headerMatchesRow i
    exact ⟨r, hr, headerOf_eq_headerWord_of_decode h ▸ hmatch, hname⟩
  refine ⟨fun r₁ h₁ r₂ h₂ m₁ m₂ => opcodeTable_rows_disjoint r₁ h₁ r₂ h₂ (patterns_agree_of_matchesRow m₁ m₂),
    fun noRow => ?_, row_of_read⟩
  cases h : decode (byte0 :: byte1 :: payload) with
  | error reason => exact ⟨reason, rfl⟩
  | ok read =>
    obtain ⟨r, hr, hmatch, -⟩ := row_of_read read.1 read.2 h
    exact absurd hmatch (by simp [noRow r hr])

end Sys2Proof

/-! ## The operation a step takes (30_encoding R74, 20_memory R56) -/

namespace Sys2Proof.Machine

open Sys2Proof

theorem pendingAfter_eq_ite (issue : Issue) (n : Nat) (rest : List Issue) :
    pendingAfter issue n rest =
      if n < issue.bytes.length then ⟨issue.agent, issue.bytes.drop n⟩ :: rest else rest := by
  unfold pendingAfter
  by_cases h : n < issue.bytes.length
  · rw [List.drop_eq_getElem_cons h, if_pos h]
  · rw [List.drop_of_length_le (Nat.le_of_not_lt h), if_neg h]

/-- Settles O6: the transaction is fetched and its bytes are taken off. -/
theorem stepRunsTheDecodedOperation : Obligations.StepRunsTheDecodedOperation := by
  intro s issue rest i n hf hp hd ha
  have taken : fetch s = .run i (pendingAfter issue n rest) := by
    simp [fetch, hp, hf, hd, ha]
  rw [step, taken, pendingAfter_eq_ite]

end Sys2Proof.Machine

/-! ## What each operation answers (30_encoding R73) -/

namespace Sys2Proof.Machine

open Sys2Proof

theorem responseByte_high (r : EnqueueResult) : (responseByte r).extractLsb' 2 6 = 0#6 := by
  cases r <;> rfl

theorem responseByte_low_ne (r : EnqueueResult) : (responseByte r).extractLsb' 0 2 ≠ 0b11#2 := by
  cases r <;> decide

theorem execEnqueue_response {s t : State} {data : List Byte} (h : execEnqueue data s = .next t) :
    ∃ r, t.response = some (responseByte r) := by
  obtain ⟨-, ⟨-, rfl⟩ | ⟨-, -, rfl⟩ | ⟨-, -, rfl⟩⟩ := execEnqueue_cases h <;> exact ⟨_, rfl⟩

theorem execTick_response {s t : State} (h : execTick s = .next t) : t.response = none := by
  obtain ⟨-, -, ⟨-, rfl⟩ | ⟨-, r, -, rfl⟩ | ⟨-, b, -, -, rfl⟩ | ⟨-, b, -, -, rfl⟩⟩ := execTick_cases h <;> rfl

/-- Settles O17: ENQUEUE answers one of its three codes, STATUS its word, TICK and RESET nothing. -/
theorem responsesHaveTheirCodes : Obligations.ResponsesHaveTheirCodes := by
  intro s t i h
  cases i with
  | enqueue data =>
    obtain ⟨r, hr⟩ := execEnqueue_response h
    exact ⟨responseByte r, hr, responseByte_high r, responseByte_low_ne r⟩
  | status =>
    obtain ⟨-, rfl⟩ := execStatus_cases h
    exact ⟨_, rfl⟩
  | tick => exact execTick_response h
  | reset =>
    obtain ⟨-, rfl⟩ := execReset_cases h
    rfl

end Sys2Proof.Machine

/-! ## What a line of a trace issues (30_encoding R78, R79) -/

namespace Sys2Proof.Machine

open Sys2Proof

section
variable (s : State)

theorem expandLine_of_not_wellFormed {l : Line} (h : l.wellFormed = false) : expandLine s l = none := by
  simp [expandLine, h]

theorem expandLine_ticks (agent : Option Agent) (n : Nat) :
    expandLine s ⟨agent, .ticks (n + 1)⟩ = some (List.replicate (n + 1) (issueOf agent .tick)) :=
  if_pos (decide_eq_true n.succ_pos)

theorem expandLine_gap (agent : Option Agent) : expandLine s ⟨agent, .gap⟩ = some [] := rfl

theorem expandLine_drain {agent : Option Agent} (h : Line.prefixAllows ⟨agent, .drain⟩ .tickSource = true) :
    expandLine s ⟨agent, .drain⟩ = some (List.replicate (ticksLeft s) (issueOf none .tick)) :=
  if_pos h

theorem expandLine_send {agent : Option Agent} {interleaved : List Nat} {data : List Byte} (hn : data.length ≤ 255)
    (h : Line.prefixAllows ⟨agent, .send interleaved data⟩ .producer = true) :
    expandLine s ⟨agent, .send interleaved data⟩ = some ((sendOps data interleaved s).map (issueOf none)) :=
  if_pos (Bool.and_eq_true_iff.mpr ⟨decide_eq_true hn, h⟩)

end

/-- Settles O52: a line that can be written expands by its body, one that cannot has no expansion. -/
theorem pseudoLinesExpandAsTheTableSays : Obligations.PseudoLinesExpandAsTheTableSays := by
  intro s agent n data interleaved
  refine ⟨expandLine_ticks s none n, expandLine_ticks s (some agent) n, expandLine_of_not_wellFormed s rfl,
    expandLine_of_not_wellFormed s rfl, expandLine_gap s none, expandLine_gap s (some agent), fun ha => ?_, ?_,
    fun ha => ?_, fun hn => ⟨?_, expandLine_send s hn rfl⟩⟩
  · exact expandLine_of_not_wellFormed s (by simp [Line.wellFormed, Line.prefixAllows, ha])
  · rw [expandLine_drain s rfl, expandLine_drain s rfl]
  · exact expandLine_of_not_wellFormed s (by simp [Line.wellFormed, Line.prefixAllows, ha])
  · rw [expandLine_send s hn rfl, expandLine_send s hn rfl]

end Sys2Proof.Machine

/-! ## The TICKs of a readable packet run to its end, each taking exactly one off the ticks left (42_encoder R147) -/

namespace Sys2Proof.Machine

open Sys2Proof

/-- The terminal tick sends the last bit. -/
theorem bitsLeft_of_terminal {s : State} (hs : s.Inv) (ha : s.tickEn = 1#1) (hn : s.nextByteIndex = s.length) :
    s.bitsLeft = 1 := by
  have := advanced_bitsLeft 0#8 hs ha
  have last : (advanced 0#8 s).bitsLeft = 0 := by simp [State.bitsLeft, hn]
  omega

/-- A TICK that does not fault takes exactly one off the ticks left. -/
theorem execTick_ticksLeft_succ {s t : State} (hs : s.Inv) (h : execTick s = .next t) (hf : t.faultRecord = none) :
    ticksLeft t + 1 = ticksLeft s := by
  obtain ⟨-, ha, ⟨hp, rfl⟩ | ⟨-, r, -, rfl⟩ | ⟨hp, b, -, -, rfl⟩ | ⟨hp, b, -, hn, rfl⟩⟩ := execTick_cases h
  all_goals have bits := hs.bitsLeft_pos ha
  · have after : ticksLeft (clockEdgeStep s) = 2 * s.bitsLeft - 1 := ticksLeft_of_dataEdge ha rfl
    rw [(sameBlock_respond none _).ticksLeft, after, ticksLeft_of_clockEdge ha hp]
    omega
  · exact absurd hf (by simp)
  · have after := ticksLeft_of_clockEdge (s := advanced b s) (by simpa using ha) rfl
    have := advanced_bitsLeft b hs ha
    rw [(sameBlock_respond none _).ticksLeft, after, ticksLeft_of_dataEdge ha hp]
    omega
  · rw [ticksLeft_of_disarmed (by simp), ticksLeft_of_dataEdge ha hp, bitsLeft_of_terminal hs ha hn]

/-- Under the invariants the ticks left say whether a packet is in flight. -/
theorem State.Inv.busy_iff_ticksLeft_pos {s : State} (hs : s.Inv) : s.busy = 1#1 ↔ 0 < ticksLeft s := by
  rw [hs.busy_is_armed]
  constructor
  · intro ha
    have := hs.bitsLeft_pos ha
    cases hp : s.halfPhase with
    | clockEdge =>
      rw [ticksLeft_of_clockEdge ha hp]
      omega
    | dataEdge =>
      rw [ticksLeft_of_dataEdge ha hp]
      omega
  · intro hpos
    refine (BitVec.eq_zero_or_eq_one _).resolve_left fun disarmed => ?_
    rw [ticksLeft_of_disarmed disarmed] at hpos
    exact hpos.false

theorem State.CursorInitial.ticksLeft {s : State} (hc : s.CursorInitial) (ha : s.tickEn = 1#1) :
    Machine.ticksLeft s = 14 * s.length := by
  rw [ticksLeft_of_clockEdge ha hc.half_phase, State.bitsLeft, hc.byte_index, hc.bit_index]
  simp only [BitVec.toNat_ofNat]
  omega

theorem State.PacketReadable.of_frame {s t : State} (hs : s.PacketReadable) (hc : t.config = s.config)
    (hbuf : t.buf = s.buf) (hn : t.length = s.length) : t.PacketReadable := by
  intro j hj
  rw [hc, cell_congr hc hbuf]
  exact hs j (hn ▸ hj)

/-- A block that can send its packet to the end: the invariants, a readable packet, no fault. -/
structure State.Drains (s : State) : Prop where
  inv : s.Inv
  readable : s.PacketReadable
  unfaulted : s.faultRecord = none

theorem State.Drains.of_sameBlock {s t : State} (hs : s.Drains) (h : SameBlock s t)
    (hf : t.faultRecord = s.faultRecord) : t.Drains where
  inv := h.inv hs.inv
  readable := hs.readable.of_frame h.config h.buf h.length
  unfaulted := hf.trans hs.unfaulted

theorem State.Drains.memRead_ne_error {s : State} (hs : s.Drains) (ha : s.tickEn = 1#1) (r : FaultRecord) :
    memRead s s.byteIndex ≠ .error r := by
  obtain ⟨hcap, hwritten⟩ := hs.readable s.byteIndex (hs.inv.flight_byte_index (hs.inv.busy_is_armed.trans ha))
  obtain ⟨hout, -⟩ | ⟨-, hnone, -⟩ | ⟨-, b, -, hread⟩ := memRead_cases s s.byteIndex
  · omega
  · exact absurd hnone hwritten
  · simp [hread]

theorem execTick_keeps_drains {s t : State} (hs : s.Drains) (h : execTick s = .next t) : t.Drains := by
  obtain ⟨hbuf, hlength, -⟩ := execTick_keeps h
  refine ⟨execTick_keeps_inv hs.inv h, hs.readable.of_frame (execTick_keeps_config h) hbuf hlength, ?_⟩
  obtain ⟨hf, ha, ⟨-, rfl⟩ | ⟨-, r, hr, -⟩ | ⟨-, b, -, -, rfl⟩ | ⟨-, b, -, -, rfl⟩⟩ := execTick_cases h
  · exact hf
  · exact absurd hr (hs.memRead_ne_error ha r)
  · simpa using hf
  · simpa using hf

/-- As many TICKs as are left, or fewer, run one after another, and those run are no longer left. -/
theorem State.Drains.runTicks {s : State} (hs : s.Drains) {n : Nat} (hn : n ≤ Machine.ticksLeft s) :
    ∃ t, runTicks n s = .next t ∧ t.Drains ∧ t.config = s.config ∧ Machine.ticksLeft t + n = Machine.ticksLeft s := by
  induction n generalizing s with
  | zero => exact ⟨s, rfl, hs, rfl, rfl⟩
  | succ n ih =>
    have hb : s.busy = 1#1 := hs.inv.busy_iff_ticksLeft_pos.mpr (by omega)
    have htick := execTick_of_enabled hs.unfaulted (hs.inv.busy_is_armed.symm.trans hb)
    have hu := execTick_keeps_drains hs htick
    have one := execTick_ticksLeft_succ hs.inv htick hu.unfaulted
    obtain ⟨t, hrun, ht, hconfig, left⟩ := ih hu (by omega)
    refine ⟨t, ?_, ht, hconfig.trans (execTick_keeps_config htick), by omega⟩
    simpa only [Machine.runTicks, htick] using hrun

/-- Settles O47: a packet is in flight exactly while TICKs are left, and DRAIN issues as many. -/
theorem drainEndsThePacketInFlight : Obligations.DrainEndsThePacketInFlight := by
  intro s hinv hf hb hreadable
  have hs : s.Drains := ⟨hinv, hreadable, hf⟩
  refine ⟨fun hc => hc.ticksLeft (hinv.busy_is_armed.symm.trans hb), expandLine_drain s rfl, fun k hk => ?_, ?_⟩
  · obtain ⟨u, hrun, hu, -, left⟩ := hs.runTicks hk.le
    exact ⟨u, hrun, hu.inv.busy_iff_ticksLeft_pos.mpr (by omega)⟩
  · obtain ⟨u, hrun, hu, -, left⟩ := hs.runTicks le_rfl
    refine ⟨u, hrun, (BitVec.eq_zero_or_eq_one _).resolve_right fun busy => ?_, hu.unfaulted⟩
    have := hu.inv.busy_iff_ticksLeft_pos.mp busy
    omega

end Sys2Proof.Machine

/-! ## SEND waits for the packet in flight and hands its own over (30_encoding R79) -/

namespace Sys2Proof.Machine

open Sys2Proof

theorem runOps_append_of_next {before : List Instr} {s t : State} (h : runOps before s = .next t)
    (after : List Instr) : runOps (before ++ after) s = runOps after t := by
  rw [runOps_append, h]

/-- The operations of SEND between two polls: a STATUS and the TICKs after it. -/
def sendRound (n : Nat) : List Instr := .status :: List.replicate n .tick

theorem runOps_status_cons {s : State} (hf : s.faultRecord = none) (ops : List Instr) :
    runOps (.status :: ops) s = runOps ops (respond (some (statusWord s)) s) := by
  simp only [runOps, exec, execStatus_of_unfaulted hf]

theorem runOps_sendRound {s : State} (hf : s.faultRecord = none) (n : Nat) :
    runOps (sendRound n) s = runTicks n (respond (some (statusWord s)) s) :=
  (runOps_status_cons hf _).trans (runOps_replicate_tick n _)

/-- A SEND that finds the block busy goes on from where its TICKs lead. -/
theorem sendOps_of_round {s t : State} (data : List Byte) {n : Nat} (rest : List Nat) (hf : s.faultRecord = none)
    (hb : s.busy = 1#1) (h : runOps (sendRound n) s = .next t) :
    sendOps data (n :: rest) s = sendRound n ++ sendOps data rest t := by
  rw [runOps_sendRound hf] at h
  rw [sendOps_of_busy data n rest hf hb, h]
  rfl

/-- It ends with its TICKs where they lead nowhere. -/
theorem sendOps_of_no_round {s : State} (data : List Byte) {n : Nat} (rest : List Nat) (hf : s.faultRecord = none)
    (hb : s.busy = 1#1) (h : ∀ t, runOps (sendRound n) s ≠ .next t) : sendOps data (n :: rest) s = sendRound n := by
  rw [runOps_sendRound hf] at h
  rw [sendOps_of_busy data n rest hf hb]
  cases hrun : runTicks n (respond (some (statusWord s)) s) with
  | next t => exact absurd hrun (h t)
  | fault r => exact congrArg _ (List.append_nil _)
  | refused r => exact congrArg _ (List.append_nil _)

theorem runOps_singleton (i : Instr) (s : State) : runOps [i] s = exec i s := by
  rw [runOps]
  cases exec i s <;> rfl

/-- On an idle block SEND polls once. -/
theorem runOps_sendOps_of_idle {s : State} (data : List Byte) (interleaved : List Nat) (hf : s.faultRecord = none)
    (hb : s.busy = 0#1) :
    runOps (sendOps data interleaved s) s = execEnqueue data (respond (some (statusWord s)) s) := by
  rw [sendOps_of_idle data interleaved hf hb, runOps_status_cons hf, runOps_singleton]
  rfl

theorem State.Drains.polled {s : State} (hs : s.Drains) : (respond (some (statusWord s)) s).Drains :=
  hs.of_sameBlock (sameBlock_respond _ s) rfl

/-- A poll and TICKs that are left lead to a state with the rest of them left. -/
theorem State.Drains.runOps_sendRound {s : State} (hs : s.Drains) {n : Nat} (hn : n ≤ Machine.ticksLeft s) :
    ∃ t, runOps (sendRound n) s = .next t ∧ t.Drains ∧ t.config = s.config ∧
      Machine.ticksLeft t + n = Machine.ticksLeft s := by
  rw [Machine.runOps_sendRound hs.unfaulted]
  exact hs.polled.runTicks hn

/-- When the TICKs between the polls are those left, SEND comes to its ENQUEUE on an idle block. -/
theorem State.Drains.runOps_sendOps {s : State} (hs : s.Drains) (data : List Byte) {interleaved : List Nat}
    (hsum : interleaved.sum = Machine.ticksLeft s) :
    ∃ t, t.Drains ∧ t.busy = 0#1 ∧ t.config = s.config ∧
      runOps (sendOps data interleaved s) s = execEnqueue data t := by
  induction interleaved generalizing s with
  | nil =>
    have hb : s.busy = 0#1 := (BitVec.eq_zero_or_eq_one _).resolve_right fun busy =>
      (hs.inv.busy_iff_ticksLeft_pos.mp busy).ne hsum
    exact ⟨_, hs.polled, hb, rfl, runOps_sendOps_of_idle data [] hs.unfaulted hb⟩
  | cons n rest ih =>
    rw [List.sum_cons] at hsum
    obtain hb | hb := BitVec.eq_zero_or_eq_one s.busy
    · exact ⟨_, hs.polled, hb, rfl, runOps_sendOps_of_idle data _ hs.unfaulted hb⟩
    · obtain ⟨t, round, ht, hconfig, left⟩ := hs.runOps_sendRound (n := n) (by omega)
      obtain ⟨u, hu, hidle, hconfig', hrun⟩ := ih ht (by omega)
      refine ⟨u, hu, hidle, hconfig'.trans hconfig, ?_⟩
      rw [sendOps_of_round data rest hs.unfaulted hb round, runOps_append_of_next round, hrun]

/-- Settles O54: SEND comes to an idle block with a legal count, which accepts. -/
theorem sendWaitsOutThePacketInFlight : Obligations.SendWaitsOutThePacketInFlight := by
  intro s interleaved data hinv hf _ hreadable hpos hcap hsum
  obtain ⟨t, ht, hidle, hconfig, hrun⟩ := State.Drains.runOps_sendOps ⟨hinv, hreadable, hf⟩ data hsum
  have legal : countLegal t.config data.length := ⟨hpos, hconfig ▸ hcap⟩
  have accepted := execEnqueue_of_accepted ht.unfaulted legal (by rw [hidle]; decide)
  refine ⟨_, hrun.trans accepted, rfl, ?_, rfl, (ht.inv.idle_cursor hidle).byte_index, fun i b hi => ?_⟩
  · exact congrArg (recordedLength · data.length) hconfig
  · exact (cell_acceptPacket t data i).trans (cell_storePayload_inside hi)

end Sys2Proof.Machine

/-! ## SEND, operation by operation (30_encoding R79) -/

namespace Sys2Proof.Machine

open Sys2Proof

/-- What follows a poll of SEND that reads BUSY = 1: the TICKs given for it, then the next poll if they have a next
state; nothing where no number is given. -/
def PollFollowed (interleaved : List Nat) (s : State) (before after : List Instr) : Prop :=
  match interleaved[before.count .status]? with
  | none => after = []
  | some n => ∃ tail, after = List.replicate n .tick ++ tail ∧
      (∀ v, runOps (before ++ sendRound n) s = .next v → ∃ rest, tail = .status :: rest) ∧
      ((∀ v, runOps (before ++ sendRound n) s ≠ .next v) → tail = [])

/-- The places an operation of a SEND from `s` can have, when the operations before it lead to `u`. -/
def SendPlace (data : List Byte) (interleaved : List Nat) (s : State) (before after : List Instr) (op : Instr)
    (u : State) : Prop :=
  (op = .status ∧ u.faultRecord ≠ none ∧ after = []) ∨
  (op = .status ∧ u.faultRecord = none ∧ u.busy = 0#1 ∧ after = [.enqueue data]) ∨
  (op = .status ∧ u.faultRecord = none ∧ u.busy = 1#1 ∧ PollFollowed interleaved s before after) ∨
  op = .tick ∨
  (op = .enqueue data ∧ u.busy = 0#1 ∧ after = [] ∧
    ∃ earlier w, before = earlier ++ [.status] ∧ runOps earlier s = .next w ∧ w.busy = 0#1)

theorem sendOps_eq_status_cons (data : List Byte) (interleaved : List Nat) (s : State) :
    ∃ rest, sendOps data interleaved s = .status :: rest := by
  cases interleaved <;> exact ⟨_, rfl⟩

/-- An element of two lists one after the other stands in the first or behind it. -/
theorem mem_or_behind {α : Type} {xs ys before after : List α} {x : α} (h : xs ++ ys = before ++ x :: after) :
    x ∈ xs ∨ ∃ between, before = xs ++ between ∧ ys = between ++ x :: after := by
  obtain ⟨between, hbefore, hys⟩ | ⟨left, hxs, hleft⟩ := List.append_eq_append_iff.mp h
  · exact .inr ⟨between, hbefore, hys⟩
  · cases left with
    | nil => exact .inr ⟨[], by simpa using hxs.symm, by simpa using hleft.symm⟩
    | cons y left =>
      obtain ⟨rfl, -⟩ := List.cons.inj hleft
      exact .inl (by simp [hxs])

section
variable {data : List Byte} {n : Nat} {interleaved rest : List Nat} {s t u : State} {before after : List Instr}
  {op : Instr}

theorem count_status_sendRound_append :
    (sendRound n ++ before).count .status = before.count .status + 1 := by
  simp [sendRound, List.count_replicate]

/-- A round ahead of a poll uses up its own number and leaves what follows the poll the same. -/
theorem PollFollowed.after_round (round : runOps (sendRound n) s = .next t)
    (h : PollFollowed rest t before after) : PollFollowed (n :: rest) s (sendRound n ++ before) after := by
  simpa only [PollFollowed, count_status_sendRound_append, List.getElem?_cons_succ, List.append_assoc,
    runOps_append_of_next round] using h

theorem SendPlace.after_round (round : runOps (sendRound n) s = .next t)
    (h : SendPlace data rest t before after op u) :
    SendPlace data (n :: rest) s (sendRound n ++ before) after op u := by
  obtain h | h | ⟨hop, hf, hb, followed⟩ | h | ⟨hop, hb, hafter, earlier, w, rfl, hrun, hw⟩ := h
  · exact .inl h
  · exact .inr (.inl h)
  · exact .inr (.inr (.inl ⟨hop, hf, hb, followed.after_round round⟩))
  · exact .inr (.inr (.inr (.inl h)))
  · refine .inr (.inr (.inr (.inr ⟨hop, hb, hafter, sendRound n ++ earlier, w, (List.append_assoc ..).symm, ?_, hw⟩)))
    rw [runOps_append_of_next round, hrun]

/-- The first operation of a SEND is a poll, and what follows it is as the poll reads. -/
theorem sendPlace_first (h : sendOps data interleaved s = op :: after) :
    SendPlace data interleaved s [] after op s := by
  cases hf : s.faultRecord with
  | some r =>
    cases (sendOps_of_faulted data interleaved hf).symm.trans h
    exact .inl ⟨rfl, by simp [hf], rfl⟩
  | none =>
    obtain hb | hb := BitVec.eq_zero_or_eq_one s.busy
    · cases (sendOps_of_idle data interleaved hf hb).symm.trans h
      exact .inr (.inl ⟨rfl, hf, hb, rfl⟩)
    · suffices poll : op = .status ∧ PollFollowed interleaved s [] after by
        obtain ⟨hop, followed⟩ := poll
        exact .inr (.inr (.inl ⟨hop, hf, hb, followed⟩))
      cases interleaved with
      | nil =>
        cases (sendOps_of_stalled data hf hb).symm.trans h
        exact ⟨rfl, rfl⟩
      | cons n rest =>
        by_cases round : ∃ t, runOps (sendRound n) s = .next t
        · obtain ⟨t, ht⟩ := round
          cases (sendOps_of_round data rest hf hb ht).symm.trans h
          exact ⟨rfl, _, rfl, fun _ _ => sendOps_eq_status_cons data rest t, fun stuck => absurd ht (stuck t)⟩
        · have stuck : ∀ t, runOps (sendRound n) s ≠ .next t := fun t ht => round ⟨t, ht⟩
          cases (sendOps_of_no_round data rest hf hb stuck).symm.trans h
          exact ⟨rfl, [], (List.append_nil _).symm, fun t ht => absurd ht (stuck t), fun _ => rfl⟩

/-- An operation of a SEND after the first poll is a TICK, the ENQUEUE right after an idle poll, or one of what
follows the first round. -/
theorem sendOps_later {i : Instr} (h : sendOps data interleaved s = (i :: before) ++ op :: after) :
    op = .tick ∨
    (s.busy = 0#1 ∧ i :: before = [.status] ∧ op = .enqueue data ∧ after = []) ∨
    ∃ n rest t between, interleaved = n :: rest ∧ runOps (sendRound n) s = .next t ∧
      i :: before = sendRound n ++ between ∧ sendOps data rest t = between ++ op :: after := by
  have alone : ∀ n, sendOps data interleaved s = sendRound n → op = .tick := fun n hn =>
    List.eq_of_mem_replicate (n := n) (by simp [(List.cons.inj (hn.symm.trans h)).2])
  cases hf : s.faultRecord with
  | some r => exact .inl (alone 0 (sendOps_of_faulted data interleaved hf))
  | none =>
    obtain hb | hb := BitVec.eq_zero_or_eq_one s.busy
    · obtain ⟨rfl, htail⟩ := List.cons.inj ((sendOps_of_idle data interleaved hf hb).symm.trans h)
      cases before with
      | nil =>
        cases htail
        exact .inr (.inl ⟨hb, rfl, rfl, rfl⟩)
      | cons j before => simp at htail
    · cases interleaved with
      | nil => exact .inl (alone 0 (sendOps_of_stalled data hf hb))
      | cons n rest =>
        by_cases round : ∃ t, runOps (sendRound n) s = .next t
        · obtain ⟨t, ht⟩ := round
          obtain ⟨rfl, htail⟩ := List.cons.inj ((sendOps_of_round data rest hf hb ht).symm.trans h)
          obtain hmem | ⟨between, rfl, hrest⟩ := mem_or_behind htail
          · exact .inl (List.eq_of_mem_replicate hmem)
          · exact .inr (.inr ⟨n, rest, t, between, rfl, ht, rfl, hrest⟩)
        · exact .inl (alone n (sendOps_of_no_round data rest hf hb fun t ht => round ⟨t, ht⟩))

end

/-- Every operation of a SEND has one of the places, round after round. -/
theorem sendPlace_of_sendOps {data : List Byte} {interleaved : List Nat} {s u : State} {before after : List Instr}
    {op : Instr} (hops : sendOps data interleaved s = before ++ op :: after) (hrun : runOps before s = .next u) :
    SendPlace data interleaved s before after op u := by
  cases before with
  | nil => exact Host.Outcome.next.inj hrun ▸ sendPlace_first hops
  | cons i before =>
    obtain rfl | ⟨hb, hbefore, rfl, rfl⟩ | ⟨n, rest, t, between, hcons, round, hbefore, hrest⟩ :=
      sendOps_later hops
    · exact .inr (.inr (.inr (.inl rfl)))
    · rw [hbefore] at hrun ⊢
      obtain ⟨-, rfl⟩ := execStatus_cases ((runOps_singleton _ s).symm.trans hrun)
      exact .inr (.inr (.inr (.inr ⟨rfl, hb, rfl, [], s, rfl, rfl, hb⟩)))
    · rw [hbefore, runOps_append_of_next round] at hrun
      rw [hbefore, hcons]
      exact (sendPlace_of_sendOps hrest hrun).after_round round
termination_by interleaved.length
decreasing_by simp [hcons]

/-- Settles O53: SEND begins with a poll, and each of its operations has its place. -/
theorem sendPollsUntilStatusReadsIdle : Obligations.SendPollsUntilStatusReadsIdle := fun s interleaved data =>
  ⟨sendOps_eq_status_cons data interleaved s, fun _ _ _ _ => sendPlace_of_sendOps⟩

end Sys2Proof.Machine

/-! ## The STATUS word, bit by bit (10_state R35, 40_transmit_buffer R105) -/

namespace Sys2Proof.Machine

open Sys2Proof

theorem statusWord_busy (s : State) : (statusWord s).extractLsb' 0 1 = s.busy := by
  have key : ∀ l e b : Bit, ((l ++ (e ++ b)).setWidth 8 : Byte).extractLsb' 0 1 = b := by decide
  exact key s.line s.tickEn s.busy

theorem statusWord_tickEn (s : State) : (statusWord s).extractLsb' 1 1 = s.tickEn := by
  have key : ∀ l e b : Bit, ((l ++ (e ++ b)).setWidth 8 : Byte).extractLsb' 1 1 = e := by decide
  exact key s.line s.tickEn s.busy

theorem statusWord_line (s : State) : (statusWord s).extractLsb' 2 1 = s.line := by
  have key : ∀ l e b : Bit, ((l ++ (e ++ b)).setWidth 8 : Byte).extractLsb' 2 1 = l := by decide
  exact key s.line s.tickEn s.busy

theorem statusWord_high (s : State) : (statusWord s).extractLsb' 3 5 = 0#5 := by
  have key : ∀ l e b : Bit, ((l ++ (e ++ b)).setWidth 8 : Byte).extractLsb' 3 5 = 0#5 := by decide
  exact key s.line s.tickEn s.busy

/-- Settles O18: an unfaulted STATUS answers the status word, whose bits are the three fields and zeros. -/
theorem statusAnswersTheWordAndChangesNothing : Obligations.StatusAnswersTheWordAndChangesNothing := fun s hf =>
  ⟨statusWord s, execStatus_of_unfaulted hf, statusWord_busy s, statusWord_tickEn s, statusWord_line s,
    statusWord_high s⟩

end Sys2Proof.Machine

/-! ## ENQUEUE's two rejections and its accept path (40_transmit_buffer R101 to R104) -/

namespace Sys2Proof.Machine

open Sys2Proof

/-- Settles O12: no byte and more than `C` bytes are the illegal counts, and their test comes first. -/
theorem enqueueRejectsIllegalCount : Obligations.EnqueueRejectsIllegalCount := by
  intro s data hf hcount
  exact execEnqueue_of_illegal hf fun ⟨hpos, hcap⟩ => by omega

/-- Settles O13: a busy block answers BUSY to a legal count and, since the bounds test comes first (R101), BAD_COUNT
to an illegal one. -/
theorem enqueueWhileBusyAnswersBusy : Obligations.EnqueueWhileBusyAnswersBusy := by
  intro s data hf hb
  refine ⟨?_, fun hpos hcap => execEnqueue_of_busy hf ⟨hpos, hcap⟩ hb⟩
  by_cases hc : countLegal s.config data.length
  · exact ⟨responseByte .busy, execEnqueue_of_busy hf hc hb, by decide⟩
  · exact ⟨responseByte .badCount, execEnqueue_of_illegal hf hc, by decide⟩

theorem acceptPacket_length (data : List Byte) (s : State) :
    (acceptPacket data s).length = recordedLength s.config data.length := rfl

/-- Settles O14: the copy loop settles the cells, R104 the length; arming and answering settle the rest. -/
theorem acceptedEnqueueHandsOverThePacket : Obligations.AcceptedEnqueueHandsOverThePacket := by
  intro s data hf hpos hcap hb
  have idle : s.busy ≠ 1#1 := by rw [hb]; decide
  have cells : ∀ i, cell (respond (some (responseByte .accepted)) (acceptPacket data s)) i =
      cell (storePayload data s) i := fun i => ((sameBlock_respond _ _).cell i).trans (cell_acceptPacket s data i)
  refine ⟨_, execEnqueue_of_accepted hf ⟨hpos, hcap⟩ idle, fun i b hi => ?_, fun i hi => ?_, fun hexact => ?_,
    fun htrailing => ?_, rfl, rfl, rfl, rfl⟩
  · rw [cells, cell_storePayload_inside hi]
  · rw [cells, cell_storePayload_outside hi]
  · simp [acceptPacket_length, recordedLength, hexact]
  · simp [acceptPacket_length, recordedLength, htrailing]

end Sys2Proof.Machine

/-! ## A packet in flight until its end (40_transmit_buffer R106, R108) -/

namespace Sys2Proof.Machine

open Sys2Proof

/-- Settles O42: waiting and refusing leave the packet alone, and every operation keeps its bytes readable. -/
theorem stepKeepsThePayloadReadable : Obligations.StepKeepsThePayloadReadable := fun _ _ _ hs h =>
  step_keeps_of_exec_keeps (P := State.PayloadReadable) (fun _ _ same _ hs => same.payloadReadable hs)
    (fun _ _ _ hs he => exec_keeps_payloadReadable hs he) hs h

/-- The operations of R106: RESET, and a TICK at the packet's last DataEdge. -/
def EndsPacket (i : Instr) (s : State) : Prop := i = .reset ∨ (i = .tick ∧ s.TerminalTickNext)

/-- While busy, every other operation keeps both flags. -/
theorem exec_keeps_flags_of_busy {s t : State} {i : Instr} (hb : s.busy = 1#1) (hend : ¬ EndsPacket i s)
    (h : exec i s = .next t) : t.busy = s.busy ∧ t.tickEn = s.tickEn := by
  by_cases htick : i = .tick
  · subst htick
    exact execTick_keeps_flags h fun hterminal => hend (.inr ⟨rfl, hterminal⟩)
  · have same := exec_sameBlock_of_busy hb htick (fun hreset => hend (.inl hreset)) h
    exact ⟨same.busy, same.tickEn⟩

/-- Settles O32: an operation that does not end the packet keeps `busy`. -/
theorem acceptedPacketIsNeverCancelled : Obligations.AcceptedPacketIsNeverCancelled := by
  intro s t i h hb ht
  by_contra hend
  obtain ⟨hbusy, -⟩ := exec_keeps_flags_of_busy hb hend h
  exact absurd (ht.symm.trans (hbusy.trans hb)) (by decide)

/-- Where a run of operations loses a property, one of its operations is the first to break it. -/
theorem runOps_first_breaking {P : State → Prop} {ops : List Instr} {s t : State} (hs : P s)
    (h : runOps ops s = .next t) (ht : ¬ P t) :
    ∃ before op after u v, ops = before ++ op :: after ∧ runOps before s = .next u ∧ P u ∧
      exec op u = .next v ∧ ¬ P v := by
  induction ops generalizing s with
  | nil => exact absurd (Host.Outcome.next.inj h ▸ hs) ht
  | cons i is ih =>
    rw [runOps] at h
    cases he : exec i s with
    | fault r => simp [he] at h
    | refused r => simp [he] at h
    | next m =>
      by_cases hm : P m
      · obtain ⟨before, op, after, u, v, hsplit, hrun, hbroken⟩ := ih hm (by simpa only [he] using h)
        exact ⟨i :: before, op, after, u, v, congrArg (i :: ·) hsplit, by simpa only [runOps, he] using hrun, hbroken⟩
      · exact ⟨[], i, is, s, m, rfl, rfl, hs, he, hm⟩

/-- Settles O19: a STATUS that reads BUSY = 1 sees both flags set (R31), one that reads TICK_EN = 0 does not, and the
operation between them that first clears a flag ends the packet. -/
theorem completionIsSeenOnlyAfterTerminalTickOrReset :
    Obligations.CompletionIsSeenOnlyAfterTerminalTickOrReset := by
  intro s s₁ t t₁ w w₁ ops hs hstatus hw hbusy hrun hlater hw₁ hdisarmed
  have flagsSet : s₁.busy = 1#1 ∧ s₁.tickEn = 1#1 := by
    obtain ⟨-, rfl⟩ := execStatus_cases hstatus
    obtain rfl := Option.some.inj hw
    rw [statusWord_busy] at hbusy
    exact ⟨hbusy, hs.busy_is_armed.symm.trans hbusy⟩
  have flagCleared : ¬ (t.busy = 1#1 ∧ t.tickEn = 1#1) := by
    obtain ⟨-, rfl⟩ := execStatus_cases hlater
    obtain rfl := Option.some.inj hw₁
    rw [statusWord_tickEn] at hdisarmed
    exact fun ⟨_, ha⟩ => absurd (hdisarmed.symm.trans ha) (by decide)
  obtain ⟨before, op, after, u, v, hsplit, hbefore, ⟨hb, ha⟩, hexec, hcleared⟩ :=
    runOps_first_breaking (P := fun u => u.busy = 1#1 ∧ u.tickEn = 1#1) flagsSet hrun flagCleared
  refine ⟨before, op, after, u, hsplit, hbefore, ?_⟩
  by_contra hend
  obtain ⟨keepsBusy, keepsArmed⟩ := exec_keeps_flags_of_busy hb hend hexec
  exact hcleared ⟨keepsBusy.trans hb, keepsArmed.trans ha⟩

end Sys2Proof.Machine

/-! ## Where each operation is enabled (41_tick_source R121, 60_exceptions R174) -/

namespace Sys2Proof.Machine

open Sys2Proof

/-- An operation that asks for nothing but an unfaulted block is enabled exactly there. -/
theorem exists_unlessFaulted_next_iff {s t : State} :
    (∃ u, unlessFaulted s (.next t) = .next u) ↔ s.faultRecord = none :=
  ⟨fun ⟨_, h⟩ => (unlessFaulted_eq_next.mp h).1, fun hf => ⟨t, unlessFaulted_of_none hf _⟩⟩

theorem exists_execTick_next_iff {s : State} :
    (∃ t, execTick s = .next t) ↔ s.tickEn = 1#1 ∧ s.faultRecord = none := by
  constructor
  · rintro ⟨t, h⟩
    obtain ⟨hf, ha, -⟩ := execTick_cases h
    exact ⟨ha, hf⟩
  · rintro ⟨ha, hf⟩
    exact ⟨_, execTick_of_enabled hf ha⟩

/-- Settles O20: TICK asks for an armed source as well, the other three for an unfaulted block only. -/
theorem eachOperationIsEnabledWhereItsRuleSays : Obligations.EachOperationIsEnabledWhereItsRuleSays := fun _ =>
  ⟨exists_execTick_next_iff, fun _ => exists_unlessFaulted_next_iff, exists_unlessFaulted_next_iff,
    exists_unlessFaulted_next_iff⟩

end Sys2Proof.Machine

/-! ## What arms and what disarms the tick source (41_tick_source R123, R124) -/

namespace Sys2Proof.Machine

open Sys2Proof

variable {s t : State} {i : Instr}

/-- An accepted ENQUEUE is the one way from disarmed to armed. -/
theorem enqueue_accepted_of_armed (h : exec i s = .next t) (hs : s.tickEn = 0#1) (ht : t.tickEn = 1#1) :
    ∃ data, i = .enqueue data ∧ s.busy = 0#1 ∧ t.response = some (responseByte .accepted) := by
  have changed : t.tickEn ≠ s.tickEn := fun hkept => absurd (hs.symm.trans (hkept.symm.trans ht)) (by decide)
  cases i with
  | enqueue data =>
    obtain ⟨-, ⟨-, rfl⟩ | ⟨-, -, rfl⟩ | ⟨-, hb, rfl⟩⟩ := execEnqueue_cases h
    · exact absurd rfl changed
    · exact absurd rfl changed
    · exact ⟨data, rfl, (BitVec.eq_zero_or_eq_one _).resolve_right hb, rfl⟩
  | status =>
    obtain ⟨-, rfl⟩ := execStatus_cases h
    exact absurd rfl changed
  | tick =>
    obtain ⟨-, ha, -⟩ := execTick_cases h
    exact absurd (ht.trans ha.symm) changed
  | reset =>
    obtain ⟨-, rfl⟩ := execReset_cases h
    exact absurd hs.symm changed

/-- An operation that does not end the packet leaves an armed source armed. -/
theorem exec_keeps_armed (hend : ¬ EndsPacket i s) (h : exec i s = .next t) (ha : s.tickEn = 1#1) :
    t.tickEn = 1#1 := by
  cases i with
  | enqueue data =>
    obtain ⟨-, answer, rfl⟩ | ⟨-, -, answer, rfl⟩ := execEnqueue_rejected_or_accepted h
    · exact ha
    · rfl
  | status =>
    obtain ⟨-, rfl⟩ := execStatus_cases h
    exact ha
  | tick => exact (execTick_keeps_flags h fun hterminal => hend (.inr ⟨rfl, hterminal⟩)).2.trans ha
  | reset => exact absurd (.inl rfl) hend

/-- Settles O31: every operation but an accepted ENQUEUE keeps a disarmed source disarmed, every one that does not end
the packet keeps an armed one armed, and a disarmed source has no TICK. -/
theorem onlyAcceptedEnqueueArmsAndTerminalTickDisarms :
    Obligations.OnlyAcceptedEnqueueArmsAndTerminalTickDisarms := by
  intro s t i h
  refine ⟨enqueue_accepted_of_armed h, fun hs ht => ?_⟩
  have disarmed : t.tickEn ≠ 1#1 := ht ▸ by decide
  constructor
  · by_contra hend
    exact disarmed (exec_keeps_armed hend h hs)
  · intro u hu
    exact disarmed (exists_execTick_next_iff.mp ⟨u, hu⟩).1

end Sys2Proof.Machine

/-! ## An armed block that is only polled (41_tick_source R127) -/

namespace Sys2Proof.Machine

open Sys2Proof

/-- The block after one STATUS more at each step. -/
def pollingRun (s : State) : Nat → State
  | 0 => s
  | k + 1 => respond (some (statusWord (pollingRun s k))) (pollingRun s k)

theorem pollingRun_sameBlock (s : State) (k : Nat) : SameBlock s (pollingRun s k) := by
  induction k with
  | zero => constructor <;> rfl
  | succ k ih => exact ih.trans (sameBlock_respond _ _)

theorem pollingRun_faultRecord (s : State) (k : Nat) : (pollingRun s k).faultRecord = s.faultRecord := by
  induction k with
  | zero => rfl
  | succ k ih => exact ih

/-- Settles O56: a STATUS is enabled at each step of the run that polls for ever, and answers only. -/
theorem armedBlockMayNeverTick : Obligations.ArmedBlockMayNeverTick := by
  intro s hf ha hp
  have unfaulted : ∀ k, (pollingRun s k).faultRecord = none := fun k => (pollingRun_faultRecord s k).trans hf
  have armed : ∀ k, (pollingRun s k).tickEn = 1#1 := fun k => (pollingRun_sameBlock s k).tickEn.trans ha
  have enabled : ∀ k i, some Instr.status = some i →
      i.WellFormed ∧ exec i (pollingRun s k) = .next (pollingRun s (k + 1)) := by
    rintro k _ ⟨rfl⟩
    exact ⟨trivial, execStatus_of_unfaulted (unfaulted k)⟩
  obtain ⟨execution, polls⟩ :=
    enabledOperationsFormAnExecution (fun _ => some .status) (pollingRun s) hp enabled fun _ hnone => nomatch hnone
  exact ⟨_, pollingRun s, rfl, execution, fun k _ => ⟨unfaulted k, armed k, by simp [polls k]⟩, polls⟩

end Sys2Proof.Machine

/-! ## The rounding of TICK_PERIOD (41_tick_source R125) -/

namespace Sys2Proof.Machine

open Sys2Proof

/-- The remainder decides between the quotient and the next integer. -/
theorem roundedQuotient_cases (tieUp : Bool) (a b : Nat) :
    (b ≤ 2 * (a % b) ∧ roundedQuotient tieUp a b = a / b + 1) ∨
    (2 * (a % b) ≤ b ∧ roundedQuotient tieUp a b = a / b) := by
  unfold roundedQuotient
  split
  · exact .inl ⟨by omega, rfl⟩
  · exact .inr ⟨by omega, rfl⟩

/-- The rounded quotient is at most half away from `a / b`, on either side. -/
theorem roundedQuotient_nearest (tieUp : Bool) (a : Nat) {b : Nat} (hb : 0 < b) :
    2 * a ≤ (2 * roundedQuotient tieUp a b + 1) * b ∧ 2 * roundedQuotient tieUp a b * b ≤ 2 * a + b := by
  have division : b * (a / b) + a % b = a := Nat.div_add_mod a b
  have remainder : a % b < b := Nat.mod_lt a hb
  have cases := roundedQuotient_cases tieUp a b
  generalize a / b = q, a % b = r at division remainder cases
  obtain ⟨half, hq⟩ | ⟨half, hq⟩ := cases <;> rw [hq] <;> constructor <;> linarith

/-- A quotient that ends in exactly one half goes the way of the tie rule. -/
theorem roundedQuotient_tie (tieUp : Bool) {a b q : Nat} (hb : 0 < b) (tie : 2 * a = (2 * q + 1) * b) :
    roundedQuotient tieUp a b = if tieUp = true then q + 1 else q := by
  have quotient : a / b = q := Nat.div_eq_of_lt_le (by linarith) (by linarith)
  have remainder : 2 * (a % b) = b := by
    have division : b * (a / b) + a % b = a := Nat.div_add_mod a b
    rw [quotient] at division
    linarith
  simp [roundedQuotient, quotient, remainder]

/-- Settles O51: TICK_PERIOD is the rounded quotient of `F_REF` by the tick rate. -/
theorem tickPeriodIsTheNearestInteger : Obligations.TickPeriodIsTheNearestInteger := by
  intro p hbaud
  have hrate : 0 < tickRate p := Nat.mul_pos Nat.two_pos hbaud
  obtain ⟨above, below⟩ := roundedQuotient_nearest p.tieUp p.fRef hrate
  exact ⟨above, below, fun _ tie => roundedQuotient_tie p.tieUp hrate tie⟩

end Sys2Proof.Machine

/-! ## Well-issued runs of a block without the trailing byte (42_encoder R142) -/

namespace Sys2Proof.Machine

open Sys2Proof

theorem exec_keeps_refusalMark {s t : State} {i : Instr} (h : exec i s = .next t) : t.refusalMark = s.refusalMark := by
  cases i with
  | enqueue data =>
    obtain ⟨-, answer, rfl⟩ | ⟨-, -, answer, rfl⟩ := execEnqueue_rejected_or_accepted h <;> rfl
  | status =>
    obtain ⟨-, rfl⟩ := execStatus_cases h
    rfl
  | tick =>
    obtain ⟨-, -, hmark, -⟩ := execTick_keeps h
    exact hmark
  | reset =>
    obtain ⟨-, rfl⟩ := execReset_cases h
    rfl

/-- Where every pending transaction is well issued a step refuses nothing: it waits or runs the oldest operation. -/
theorem State.WellIssued.step_cases {s t : State} (hw : s.WellIssued) (hf : s.faultRecord = none)
    (h : step s = .next t) :
    (s.pending = [] ∧ t = s) ∨
    ∃ issue rest i, s.pending = issue :: rest ∧ exec i { s with pending := rest } = .next t := by
  cases hp : s.pending with
  | nil =>
    rw [step, fetch_of_pending_nil hp] at h
    exact .inl ⟨rfl, (Host.Outcome.next.inj h).symm⟩
  | cons issue rest =>
    obtain ⟨i, hi, rfl⟩ := hw issue (by simp [hp])
    rw [step, fetch_of_wellIssued hf hi hp] at h
    exact .inr ⟨_, rest, i, rfl, h⟩

/-- Settles O44: a block without the trailing byte never faults, and a step that runs a well-issued operation keeps
the refusal mark and leaves the rest pending. -/
theorem wellIssuedExactCountRunsStaySafe : Obligations.WellIssuedExactCountRunsStaySafe := by
  intro s t hexact hinv hpayload hwell hsafe h
  obtain ⟨hfault, hmark⟩ := hsafe
  obtain ⟨texact, tinv, tpayload, tfault⟩ := step_keeps_faultFree ⟨hexact, hinv, hpayload, hfault⟩ h
  obtain ⟨-, rfl⟩ | ⟨issue, rest, i, hp, hexec⟩ := hwell.step_cases hfault h
  · exact ⟨⟨hfault, hmark⟩, hwell, texact, tinv, tpayload⟩
  · have tpending : t.pending = rest := exec_keeps_pending hexec
    have twell : t.WellIssued := fun x hx => hwell x (by rw [hp, ← tpending]; exact List.mem_cons_of_mem _ hx)
    exact ⟨⟨tfault, (exec_keeps_refusalMark hexec).trans hmark⟩, twell, texact, tinv, tpayload⟩

end Sys2Proof.Machine

/-! ## What an enabled TICK does, read forwards (42_encoder R141 to R145) -/

namespace Sys2Proof.Machine

open Sys2Proof

section
variable (b : Byte) (s : State)

@[simp] theorem advanced_line :
    (advanced b s).line = if dataBit b s.bitIndex = s.previousLevel then ~~~s.line else s.line := by
  simp [advanced]
@[simp] theorem advanced_previousLevel : (advanced b s).previousLevel = dataBit b s.bitIndex := by simp [advanced]
@[simp] theorem advanced_halfPhase : (advanced b s).halfPhase = .clockEdge := rfl

/-- What a DataEdge within the packet leaves, field by field (42_encoder R143, R144). -/
theorem advanced_eq : advanced b s = { s with
    line := if dataBit b s.bitIndex = s.previousLevel then ~~~s.line else s.line
    previousLevel := dataBit b s.bitIndex
    bitIndex := if s.bitIndex = 0#3 then 6#3 else s.bitIndex - 1#3
    byteIndex := if s.bitIndex = 0#3 then s.byteIndex + 1 else s.byteIndex
    halfPhase := .clockEdge } := by
  by_cases hk : s.bitIndex = 0#3 <;> simp [advanced, advanceCursor, toggleIfEqual, hk]

end

section
variable {s : State} {b : Byte}

/-- A read succeeds where the cell is within the buffer and written (20_memory R52). -/
theorem memRead_eq_ok_iff {i : Nat} : memRead s i = .ok b ↔ i < s.config.capacity ∧ cell s i = some b := by
  obtain ⟨hcap, hread⟩ | ⟨hcap, hc, hread⟩ | ⟨hcap, c, hc, hread⟩ := memRead_cases s i
  · simp [hread, hcap]
  · simp [hread, hc]
  · simp [hread, hc, hcap]

theorem execTick_of_clockEdge (hf : s.faultRecord = none) (ha : s.tickEn = 1#1) (hp : s.halfPhase = .clockEdge) :
    execTick s = .next (respond none (clockEdgeStep s)) := by
  rw [execTick_of_enabled hf ha, encoderStep, hp]

/-- A DataEdge that reads a byte ends the packet or goes on in it. -/
theorem execTick_of_dataEdge (hf : s.faultRecord = none) (ha : s.tickEn = 1#1) (hp : s.halfPhase = .dataEdge)
    (hcap : s.byteIndex < s.config.capacity) (hc : cell s s.byteIndex = some b) :
    execTick s = .next (respond none (if s.nextByteIndex = s.length then completed b s else advanced b s)) := by
  have read := memRead_eq_ok_iff.mpr ⟨hcap, hc⟩
  rw [execTick_of_enabled hf ha, encoderStep, hp]
  obtain ⟨r, hr, -⟩ | ⟨c, hread, ⟨hn, hstep⟩ | ⟨hn, hstep⟩⟩ := dataEdgeStep_cases s
  · exact nomatch read.symm.trans hr
  · obtain rfl := Except.ok.inj (read.symm.trans hread)
    rw [if_neg hn, ← hstep]
  · obtain rfl := Except.ok.inj (read.symm.trans hread)
    rw [if_pos hn, ← hstep]

/-- A DataEdge that records no fault has read its byte. -/
theorem execTick_dataEdge {t : State} (h : execTick s = .next t) (hf : t.faultRecord = none)
    (hp : s.halfPhase = .dataEdge) (hc : cell s s.byteIndex = some b) :
    t = respond none (if s.nextByteIndex = s.length then completed b s else advanced b s) := by
  obtain ⟨hs, ha, ⟨hclock, -⟩ | ⟨-, r, -, rfl⟩ | ⟨-, c, hread, -⟩ | ⟨-, c, hread, -⟩⟩ := execTick_cases h
  · exact nomatch hclock.symm.trans hp
  · exact nomatch hf
  all_goals
    obtain ⟨hcap, -⟩ := memRead_eq_ok_iff.mp hread
    exact Host.Outcome.next.inj (h.symm.trans (execTick_of_dataEdge hs ha hp hcap hc))

end

/-- Settles O21: ClockEdgeStep is these two fields. -/
theorem clockEdgeTogglesTheLine : Obligations.ClockEdgeTogglesTheLine := fun _ hf ha hp =>
  ⟨none, execTick_of_clockEdge hf ha hp⟩

/-- Settles O22: the data bit is the byte's bit `bit_index`, and below 6 the cursor counts down by one. -/
theorem dataEdgeEncodesOneBit : Obligations.DataEdgeEncodesOneBit := by
  intro s b hf ha hp hcap hc hn
  have counted : ∀ k : BitVec 3, k - 1#3 = if k = 0#3 then 7#3 else BitVec.ofNat 3 (k.toNat - 1) := by decide
  refine ⟨none, (execTick_of_dataEdge hf ha hp hcap hc).trans ?_⟩
  rw [if_neg hn, advanced_eq, dataBit_eq, counted]
  by_cases hk : s.bitIndex = 0#3 <;> simp [respond, hk]

/-- Settles O23: the terminal transition keeps nothing of the byte read. -/
theorem terminalTickReleasesTheBlock : Obligations.TerminalTickReleasesTheBlock := by
  intro s b hf ha hp hcap hc hn
  refine ⟨none, (execTick_of_dataEdge hf ha hp hcap hc).trans ?_⟩
  rw [if_pos hn, completed_eq]
  rfl

/-- Settles O28: the ClockEdge complements the line, the DataEdge within the packet does so exactly when the bits are
equal, and the terminal one writes the idle level. -/
theorem lineTransitions : Obligations.LineTransitions := by
  intro s t b h hf
  have complement_ne : ∀ l : Bit, ~~~l ≠ l := by decide
  have agrees_iff : ∀ bit previous line idle : Bit, ((idle ≠ line ↔ bit = previous) ↔
      line ^^^ (if bit = previous then 1#1 else 0#1) = idle) := by decide
  refine ⟨fun hp => ?_, fun hp hc hterminal => ?_, fun ⟨hp, hn⟩ hc => ?_⟩
  · obtain rfl := execTick_clockEdge h hp
    exact complement_ne s.line
  · obtain rfl := execTick_dataEdge h hf hp hc
    rw [if_neg fun hn => hterminal ⟨hp, hn⟩, respond_line, advanced_line, dataBit_eq]
    split
    case isTrue heq => exact iff_of_true (complement_ne s.line) heq
    case isFalse hne => exact iff_of_false (not_not_intro rfl) hne
  · obtain rfl := execTick_dataEdge h hf hp hc
    rw [if_pos hn, respond_line, completed_line]
    exact ⟨rfl, ne_comm, agrees_iff _ _ _ _⟩

end Sys2Proof.Machine

/-! ## A packet from its start to its end (42_encoder R140, R147) -/

namespace Sys2Proof.Machine

open Sys2Proof

/-- Settles O45: the copy loop has written every byte of the packet, and an idle cursor is the initial one. -/
theorem acceptedEnqueueStartsAPacket : Obligations.AcceptedEnqueueStartsAPacket := by
  intro s data hexact hinv hf hb hpos hcap
  have accepted := execEnqueue_of_accepted hf ⟨hpos, hcap⟩ (by rw [hb]; decide)
  have hlength : (acceptPacket data s).length = data.length := by simp [acceptPacket_length, recordedLength, hexact]
  obtain ⟨hphase, hlevel, hbyte, hbit⟩ := hinv.idle_cursor hb
  refine ⟨_, accepted, ⟨hf, rfl, rfl, rfl, ⟨hphase, hlevel, hbyte, hbit⟩, hpos.trans_eq hlength.symm, fun j hj => ?_⟩,
    hlength⟩
  refine acceptPacket_payloadReadable ⟨hpos, hcap⟩ rfl j ?_
  rw [acceptPacket_config, hexact]
  exact hj

/-- A packet start has the invariants of R31, since readable cells are within the buffer. -/
theorem State.PacketStart.drains {s : State} (hs : s.PacketStart) : s.Drains where
  inv := by
    have hpos := hs.nonempty
    obtain ⟨hlast, -⟩ := hs.readable (s.length - 1) (by omega)
    refine State.inv_of_flight hs.owned hs.armed ?_ ?_ ?_
    · exact le_trans (by omega) (le_recordedLength s.config s.config.capacity)
    · rw [hs.cursor.byte_index]
      omega
    · rw [hs.cursor.bit_index]
      decide
  readable := hs.readable
  unfaulted := hs.unfaulted

/-- The last bit is sent by the terminal tick. -/
theorem nextByteIndex_eq_length_iff {s : State} (hs : s.Inv) (ha : s.tickEn = 1#1) :
    s.nextByteIndex = s.length ↔ s.bitsLeft = 1 := by
  refine ⟨bitsLeft_of_terminal hs ha, fun hone => ?_⟩
  by_contra hn
  have := (advanced_inv 0#8 hs ha hn).bitsLeft_pos (by simpa using ha)
  have := advanced_bitsLeft 0#8 hs ha
  omega

/-- The ticks left tell the edge by their parity, and the terminal tick is the last. -/
theorem State.Inv.phase_of_ticksLeft {s : State} (hs : s.Inv) (ha : s.tickEn = 1#1) :
    s.halfPhase = (if Machine.ticksLeft s % 2 = 0 then .clockEdge else .dataEdge) ∧
      (s.TerminalTickNext ↔ Machine.ticksLeft s = 1) := by
  have := hs.bitsLeft_pos ha
  rw [State.TerminalTickNext, nextByteIndex_eq_length_iff hs ha]
  cases hp : s.halfPhase with
  | clockEdge =>
    rw [ticksLeft_of_clockEdge ha hp, if_pos (by omega)]
    exact ⟨rfl, iff_of_false (by simp) (by omega)⟩
  | dataEdge =>
    rw [ticksLeft_of_dataEdge ha hp, if_neg (by omega)]
    exact ⟨rfl, by simp⟩

/-- Settles O46: `14 * length` ticks are left at the start, each TICK takes one off, and the last one leaves an idle
block. -/
theorem packetTakesFourteenTicksPerByte : Obligations.PacketTakesFourteenTicksPerByte := by
  intro s hs
  have total : ticksLeft s = 14 * s.length := hs.cursor.ticksLeft hs.armed
  constructor
  · intro k hk
    obtain ⟨u, hrun, hu, -, left⟩ := hs.drains.runTicks (n := k) (by omega)
    have busy : u.busy = 1#1 := hu.inv.busy_iff_ticksLeft_pos.mpr (by omega)
    have armed : u.tickEn = 1#1 := hu.inv.busy_is_armed.symm.trans busy
    obtain ⟨phase, terminal⟩ := hu.inv.phase_of_ticksLeft armed
    have parity : ticksLeft u % 2 = 0 ↔ k % 2 = 0 := by omega
    refine ⟨u, hrun, busy, armed, hu.unfaulted, ?_, terminal.trans (by omega)⟩
    simp only [phase, parity]
  · obtain ⟨u, hrun, hu, hconfig, left⟩ := hs.drains.runTicks total.ge
    have idle : u.busy = 0#1 := (BitVec.eq_zero_or_eq_one _).resolve_right fun busy => by
      have := hu.inv.busy_iff_ticksLeft_pos.mp busy
      omega
    refine ⟨u, hrun, idle, hu.inv.busy_is_armed.symm.trans idle, hu.unfaulted, ?_, hu.inv.idle_cursor idle⟩
    rw [hu.inv.idle_line idle, hconfig]

end Sys2Proof.Machine

/-! ## The waveform of a packet, bit by bit (42_encoder R146, R148) -/

namespace Sys2Proof.Machine

open Sys2Proof

/-- The level after `n` complements of the idle level. -/
def toggled (idle : Bit) (n : Nat) : Bit := idle ^^^ BitVec.ofNat 1 (n % 2)

theorem toggled_zero (idle : Bit) : toggled idle 0 = idle := BitVec.xor_zero

theorem toggled_succ (idle : Bit) (n : Nat) : toggled idle (n + 1) = ~~~toggled idle n := by
  have flip : ∀ l : Bit, l ^^^ 0#1 = ~~~(l ^^^ 1#1) ∧ l ^^^ 1#1 = ~~~(l ^^^ 0#1) := by decide
  rw [toggled, toggled]
  obtain h | h := Nat.mod_two_eq_zero_or_one n
  · rw [h, show (n + 1) % 2 = 1 by omega]
    exact (flip idle).2
  · rw [h, show (n + 1) % 2 = 0 by omega]
    exact (flip idle).1

section
variable (idle seed : Bit) (byteAt : Nat → Byte)

theorem clockEdgeLevel_succ (k : Nat) :
    clockEdgeLevel idle seed byteAt (k + 1) = ~~~toggled idle (k + agreementSum seed byteAt k) := by
  rw [← toggled_succ, Nat.add_right_comm]
  rfl

theorem sentBit_succ (k : Nat) :
    sentBit seed byteAt (k + 1) = dataBit (byteAt (k / 7)) (BitVec.ofNat 3 (6 - k % 7)) := rfl

/-- One bit adds a ClockEdge's complement and, where it agrees with the bit before, a DataEdge's. -/
theorem toggled_agreementSum_succ (k : Nat) :
    toggled idle (k + 1 + agreementSum seed byteAt (k + 1)) =
      if sentBit seed byteAt (k + 1) = sentBit seed byteAt k then ~~~clockEdgeLevel idle seed byteAt (k + 1)
      else clockEdgeLevel idle seed byteAt (k + 1) := by
  rw [clockEdgeLevel_succ, ← toggled_succ, ← toggled_succ, agreementSum, agreement, Nat.add_sub_cancel]
  split <;> congr 1 <;> omega

/-- The levels of `n` bits of `m`, from bit `start` on, two to a bit (42_encoder R148). -/
def bitLevels (m start n : Nat) : List Bit :=
  (List.range' start n).flatMap fun k => [clockEdgeLevel idle seed byteAt k, dataEdgeLevel idle seed byteAt m k]

theorem bitLevels_succ (m start n : Nat) :
    bitLevels idle seed byteAt m start (n + 1) =
      clockEdgeLevel idle seed byteAt start :: dataEdgeLevel idle seed byteAt m start ::
        bitLevels idle seed byteAt m (start + 1) n := rfl

theorem bitLevels_length (m start n : Nat) : (bitLevels idle seed byteAt m start n).length = 2 * n := by
  simp [bitLevels, Nat.mul_comm]

theorem bitLevels_getElem? (m : Nat) {start n i : Nat} (hi : i < n) :
    (bitLevels idle seed byteAt m start n)[2 * i]? = some (clockEdgeLevel idle seed byteAt (start + i)) ∧
      (bitLevels idle seed byteAt m start n)[2 * i + 1]? = some (dataEdgeLevel idle seed byteAt m (start + i)) := by
  induction n generalizing start i with
  | zero => omega
  | succ n ih =>
    rw [bitLevels_succ]
    cases i with
    | zero => exact ⟨rfl, rfl⟩
    | succ i => simpa [Nat.mul_succ, Nat.add_assoc, Nat.add_comm 1] using ih (start := start + 1) (i := i) (by omega)

end

/-! ### The cursor at each bit -/

/-- A packet that can be read and whose bytes are those of `byteAt` up to bit 7, which is never sent. -/
def State.Carries (byteAt : Nat → Byte) (s : State) : Prop :=
  ∀ j, j < s.length → j < s.config.capacity ∧ ∃ b, cell s j = some b ∧ b &&& 0x7F#8 = byteAt j &&& 0x7F#8

theorem State.Carries.of_frame {byteAt : Nat → Byte} {s t : State} (hs : s.Carries byteAt) (hc : t.config = s.config)
    (hbuf : t.buf = s.buf) (hn : t.length = s.length) : t.Carries byteAt := by
  intro j hj
  rw [hc, cell_congr hc hbuf]
  exact hs j (hn ▸ hj)

/-- The data bits are the seven low ones (42_encoder R146). -/
theorem dataBit_congr {b c : Byte} (h : b &&& 0x7F#8 = c &&& 0x7F#8) {k : BitVec 3} (hk : k.toNat ≤ 6) :
    dataBit b k = dataBit c k := by
  have low : ∀ k : BitVec 3, k.toNat ≤ 6 → (0x7F#8).getLsbD k.toNat = true := by decide
  have bits := congrArg (fun x => x.getLsbD k.toNat) h
  simp only [BitVec.getLsbD_and, low k hk, Bool.and_true] at bits
  rw [dataBit_eq, dataBit_eq, bits]

/-- An armed block that has sent `k` bits of its packet. -/
structure State.AtBit (byteAt : Nat → Byte) (k : Nat) (s : State) : Prop where
  unfaulted : s.faultRecord = none
  armed : s.tickEn = 1#1
  phase : s.halfPhase = .clockEdge
  byte_index : s.byteIndex = k / 7
  bit_index : s.bitIndex = BitVec.ofNat 3 (6 - k % 7)
  level : s.previousLevel = sentBit (seedLevel s.config) byteAt k
  line : s.line = toggled (idleLevel s.config) (k + agreementSum (seedLevel s.config) byteAt k)
  carries : s.Carries byteAt

theorem State.PacketStart.atBit_zero {byteAt : Nat → Byte} {s : State} (hs : s.PacketStart)
    (carries : s.Carries byteAt) : s.AtBit byteAt 0 where
  unfaulted := hs.unfaulted
  armed := hs.armed
  phase := hs.cursor.half_phase
  byte_index := hs.cursor.byte_index
  bit_index := hs.cursor.bit_index
  level := hs.cursor.previous_level
  line := hs.line_idle.trans (toggled_zero _).symm
  carries := carries

/-- `bit_index` after `k` bits is at most 6, is 0 at a byte's last bit, and is counted down by the next (R144). -/
theorem bitIndex_arithmetic (k : Nat) :
    (BitVec.ofNat 3 (6 - k % 7)).toNat ≤ 6 ∧ (BitVec.ofNat 3 (6 - k % 7) = 0#3 ↔ k % 7 = 6) ∧
      (if BitVec.ofNat 3 (6 - k % 7) = 0#3 then 6#3 else BitVec.ofNat 3 (6 - k % 7) - 1#3) =
        BitVec.ofNat 3 (6 - (k + 1) % 7) := by
  have table : ∀ r < 7, (BitVec.ofNat 3 (6 - r)).toNat ≤ 6 ∧ (BitVec.ofNat 3 (6 - r) = 0#3 ↔ r = 6) ∧
      (if BitVec.ofNat 3 (6 - r) = 0#3 then 6#3 else BitVec.ofNat 3 (6 - r) - 1#3) =
        BitVec.ofNat 3 (6 - (r + 1) % 7) := by decide
  simpa only [Nat.mod_add_mod] using table (k % 7) (Nat.mod_lt k (by decide))

theorem State.AtBit.nextByteIndex {byteAt : Nat → Byte} {k : Nat} {s : State} (hs : s.AtBit byteAt k) :
    s.nextByteIndex = (k + 1) / 7 := by
  obtain ⟨-, last, -⟩ := bitIndex_arithmetic k
  rw [State.nextByteIndex, hs.bit_index, hs.byte_index]
  simp only [last]
  split <;> omega

/-- The packet's last bit is its `7 * length`-th. -/
theorem State.AtBit.nextByteIndex_eq_length_iff {byteAt : Nat → Byte} {k : Nat} {s : State} (hs : s.AtBit byteAt k)
    (hk : k < 7 * s.length) : s.nextByteIndex = s.length ↔ k + 1 = 7 * s.length := by
  rw [hs.nextByteIndex]
  omega

/-- The bit the next DataEdge reads. -/
theorem State.AtBit.reads {byteAt : Nat → Byte} {k : Nat} {s : State} (hs : s.AtBit byteAt k)
    (hk : k < 7 * s.length) :
    ∃ b, s.byteIndex < s.config.capacity ∧ cell s s.byteIndex = some b ∧
      dataBit b s.bitIndex = sentBit (seedLevel s.config) byteAt (k + 1) := by
  obtain ⟨range, -, -⟩ := bitIndex_arithmetic k
  obtain ⟨hcap, b, hb, masked⟩ := hs.carries s.byteIndex (by rw [hs.byte_index]; omega)
  refine ⟨b, hcap, hb, ?_⟩
  rw [sentBit_succ, ← hs.byte_index, ← hs.bit_index]
  exact dataBit_congr masked (by rw [hs.bit_index]; exact range)

/-- The block after a ClockEdge and a DataEdge that reads `b`. -/
def State.afterBit (b : Byte) (s : State) : State :=
  respond none (if s.nextByteIndex = s.length then completed b (respond none (clockEdgeStep s))
    else advanced b (respond none (clockEdgeStep s)))

section
variable {byteAt : Nat → Byte} {k : Nat} {s : State} {b : Byte}

@[simp] theorem State.afterBit_config : (s.afterBit b).config = s.config := by
  unfold State.afterBit; split <;> simp
@[simp] theorem State.afterBit_length : (s.afterBit b).length = s.length := by
  unfold State.afterBit; split <;> simp
@[simp] theorem State.afterBit_faultRecord : (s.afterBit b).faultRecord = s.faultRecord := by
  unfold State.afterBit; split <;> simp

theorem State.afterBit_of_last (hn : s.nextByteIndex = s.length) :
    (s.afterBit b).tickEn = 0#1 ∧ (s.afterBit b).line = idleLevel s.config := by
  simp [State.afterBit, hn]

/-- Within the packet the two TICKs of a bit lead to the next one. -/
theorem State.AtBit.afterBit (hs : s.AtBit byteAt k)
    (sent : dataBit b s.bitIndex = sentBit (seedLevel s.config) byteAt (k + 1)) (hn : s.nextByteIndex ≠ s.length) :
    (s.afterBit b).AtBit byteAt (k + 1) := by
  obtain ⟨-, -, counted⟩ := bitIndex_arithmetic k
  rw [State.afterBit, if_neg hn]
  constructor
  case unfaulted => simpa using hs.unfaulted
  case armed => simpa using hs.armed
  case phase => rfl
  case byte_index => exact (advanced_byteIndex b _).trans hs.nextByteIndex
  case bit_index => simpa [hs.bit_index] using counted
  case level => simpa using sent
  case line => simp [sent, hs.level, hs.line, toggled_agreementSum_succ, clockEdgeLevel_succ]
  case carries => exact hs.carries.of_frame (by simp) (by simp) (by simp)

/-- The line after the DataEdge of bit `k + 1`. -/
theorem State.AtBit.afterBit_line (hs : s.AtBit byteAt k) (hk : k < 7 * s.length)
    (sent : dataBit b s.bitIndex = sentBit (seedLevel s.config) byteAt (k + 1)) :
    (s.afterBit b).line = dataEdgeLevel (idleLevel s.config) (seedLevel s.config) byteAt (7 * s.length) (k + 1) := by
  have last := hs.nextByteIndex_eq_length_iff hk
  by_cases hn : s.nextByteIndex = s.length
  · rw [dataEdgeLevel, if_pos (last.mp hn), (State.afterBit_of_last hn).2]
  · rw [dataEdgeLevel, if_neg (mt last.mpr hn), (hs.afterBit sent hn).line, State.afterBit_config]
    rfl

theorem waveform_succ_of_next {t : State} (n : Nat) (h : execTick s = .next t) (hf : t.faultRecord = none) :
    waveform (n + 1) s = t.line :: waveform n t := by
  simp [waveform, h, hf]

theorem waveform_of_disarmed (n : Nat) (h : s.tickEn = 0#1) : waveform n s = [] := by
  cases n with
  | zero => rfl
  | succ n =>
    rw [waveform]
    cases htick : execTick s with
    | next t => exact absurd (h.symm.trans (exists_execTick_next_iff.mp ⟨t, htick⟩).1) (by decide)
    | fault r => rfl
    | refused r => rfl

/-- The line after the ClockEdge of bit `k + 1`, whatever follows. -/
theorem State.AtBit.waveform_clockEdge (hs : s.AtBit byteAt k) (n : Nat) :
    Machine.waveform (n + 1) s = clockEdgeLevel (idleLevel s.config) (seedLevel s.config) byteAt (k + 1) ::
      Machine.waveform n (respond none (clockEdgeStep s)) := by
  rw [waveform_succ_of_next n (execTick_of_clockEdge hs.unfaulted hs.armed hs.phase) hs.unfaulted,
    clockEdgeLevel_succ, ← hs.line]
  rfl

/-- The waveform of a whole bit and what follows. -/
theorem State.AtBit.waveform_bit (hs : s.AtBit byteAt k) (hk : k < 7 * s.length) :
    ∃ b, dataBit b s.bitIndex = sentBit (seedLevel s.config) byteAt (k + 1) ∧ ∀ n, Machine.waveform (n + 2) s =
      clockEdgeLevel (idleLevel s.config) (seedLevel s.config) byteAt (k + 1) ::
      dataEdgeLevel (idleLevel s.config) (seedLevel s.config) byteAt (7 * s.length) (k + 1) ::
        Machine.waveform n (s.afterBit b) := by
  obtain ⟨b, hcap, hb, sent⟩ := hs.reads hk
  have dataEdge : execTick (respond none (clockEdgeStep s)) = .next (s.afterBit b) :=
    execTick_of_dataEdge hs.unfaulted hs.armed rfl hcap hb
  refine ⟨b, sent, fun n => ?_⟩
  rw [hs.waveform_clockEdge, waveform_succ_of_next n dataEdge (by simpa using hs.unfaulted),
    hs.afterBit_line hk sent]

/-- After `k` bits any number of TICKs gives the levels of the bits left, and nothing past the terminal tick. -/
theorem State.AtBit.waveform {bits : Nat} (hs : s.AtBit byteAt k) (hk : k + (bits + 1) = 7 * s.length) (n : Nat) :
    Machine.waveform n s = (bitLevels (idleLevel s.config) (seedLevel s.config) byteAt (7 * s.length) (k + 1)
      (bits + 1)).take n := by
  induction bits generalizing k s n with
  | zero =>
    match n with
    | 0 => rfl
    | 1 => exact hs.waveform_clockEdge 0
    | n + 2 =>
      obtain ⟨b, -, bit⟩ := hs.waveform_bit (by omega)
      obtain ⟨disarmed, -⟩ := State.afterBit_of_last (b := b) ((hs.nextByteIndex_eq_length_iff (by omega)).mpr hk)
      simp [bit, waveform_of_disarmed n disarmed, bitLevels]
  | succ bits ih =>
    match n with
    | 0 => rfl
    | 1 => exact hs.waveform_clockEdge 0
    | n + 2 =>
      obtain ⟨b, sent, bit⟩ := hs.waveform_bit (by omega)
      have inside : s.nextByteIndex ≠ s.length := mt (hs.nextByteIndex_eq_length_iff (by omega)).mp (by omega)
      have rest := ih (hs.afterBit sent inside) (by rw [State.afterBit_length]; omega) n
      rw [bit, rest, State.afterBit_config, State.afterBit_length, bitLevels_succ _ _ _ _ (k + 1)]
      rfl

end

/-- The waveform of a packet from its start. -/
theorem State.PacketStart.waveform {byteAt : Nat → Byte} {s : State} (hs : s.PacketStart)
    (carries : s.Carries byteAt) (n : Nat) :
    Machine.waveform n s =
      (bitLevels (idleLevel s.config) (seedLevel s.config) byteAt (7 * s.length) 1 (7 * s.length)).take n := by
  have hpos := hs.nonempty
  have all := (hs.atBit_zero carries).waveform (bits := 7 * s.length - 1) (by omega) n
  rwa [Nat.sub_add_cancel (by omega)] at all

/-- Of `14 * length` TICKs every one is in it. -/
theorem State.PacketStart.waveform_whole {byteAt : Nat → Byte} {s : State} (hs : s.PacketStart)
    (bytes : ∀ j, j < s.length → cell s j = some (byteAt j)) :
    Machine.waveform (14 * s.length) s =
      bitLevels (idleLevel s.config) (seedLevel s.config) byteAt (7 * s.length) 1 (7 * s.length) := by
  have carries : s.Carries byteAt := fun j hj => ⟨(hs.readable j hj).1, _, bytes j hj, rfl⟩
  rw [hs.waveform carries, List.take_of_length_le]
  rw [bitLevels_length]
  omega

/-- Settles O48: each bit of the packet gives its two levels in turn. -/
theorem waveformHasTheClosedForm : Obligations.WaveformHasTheClosedForm := by
  intro s byteAt hs bytes
  rw [hs.waveform_whole bytes]
  refine ⟨(bitLevels_length ..).trans (by omega), fun k hpos hk => ?_⟩
  obtain ⟨i, rfl⟩ := Nat.exists_eq_add_of_le hpos
  have hi : i < 7 * s.length := by omega
  have levels := bitLevels_getElem? (idleLevel s.config) (seedLevel s.config) byteAt (7 * s.length) (start := 1) hi
  rwa [show 2 * (1 + i) - 2 = 2 * i by omega, show 2 * (1 + i) - 1 = 2 * i + 1 by omega]

/-- The bytes of a readable packet. -/
def State.byteAt (s : State) (j : Nat) : Byte := (cell s j).getD 0x00#8

theorem State.PacketReadable.carries {s : State} (hs : s.PacketReadable) : s.Carries s.byteAt := by
  intro j hj
  obtain ⟨hcap, hwritten⟩ := hs j hj
  obtain ⟨b, hb⟩ := Option.ne_none_iff_exists'.mp hwritten
  exact ⟨hcap, b, hb, by simp [State.byteAt, hb]⟩

/-- A packet that differs in bit 7 only carries the same bytes. -/
theorem SameButBitSeven.carries {s t : State} (h : SameButBitSeven s t) (ht : t.PacketReadable) {byteAt : Nat → Byte}
    (hs : s.Carries byteAt) : t.Carries byteAt := by
  intro j hj
  obtain ⟨hcap, hwritten⟩ := ht j hj
  obtain ⟨c, hc⟩ := Option.ne_none_iff_exists'.mp hwritten
  obtain ⟨-, b, hb, masked⟩ := hs j (h.length ▸ hj)
  have agree := h.cells j (h.length ▸ hj)
  rw [hb, hc] at agree
  exact ⟨hcap, c, hc, (Option.some.inj agree).trans masked⟩

/-- Settles O49: both packets carry the bytes of the first up to bit 7, and that fixes the waveform. -/
theorem bitSevenIsNeverSent : Obligations.BitSevenIsNeverSent := by
  intro s t n hs ht hconfig hsame
  have carries := hs.readable.carries
  rw [ht.waveform (hsame.carries ht.readable carries), hs.waveform carries, hconfig, hsame.length]

end Sys2Proof.Machine

/-! ## What the receiver recovers (42_encoder R150) -/

namespace Sys2Proof.Machine

open Sys2Proof

section
variable (idle seed : Bit) (byteAt : Nat → Byte) (m : Nat)

/-- What the receiver takes bit `k` of `m` for, when it holds the bit before. -/
def receivedBit (k : Nat) : Bit :=
  if clockEdgeLevel idle seed byteAt k = dataEdgeLevel idle seed byteAt m k then ~~~sentBit seed byteAt (k - 1)
  else sentBit seed byteAt (k - 1)

/-- A bit is recovered where the second level follows the toggle rule. -/
theorem receivedBit_eq_sentBit_iff (k : Nat) :
    receivedBit idle seed byteAt m k = sentBit seed byteAt k ↔
      clockEdgeLevel idle seed byteAt k ^^^ BitVec.ofNat 1 (agreement seed byteAt k) =
        dataEdgeLevel idle seed byteAt m k := by
  have rule : ∀ clock data previous sent : Bit, (if clock = data then ~~~previous else previous) = sent ↔
      clock ^^^ BitVec.ofNat 1 (if sent = previous then 1 else 0) = data := by decide
  exact rule _ _ _ _

/-- Within the packet it does (42_encoder R149). -/
theorem receivedBit_of_inside {k : Nat} (hk : k + 1 ≠ m) :
    receivedBit idle seed byteAt m (k + 1) = sentBit seed byteAt (k + 1) := by
  rw [receivedBit_eq_sentBit_iff, dataEdgeLevel, if_neg hk]
  refine Eq.trans ?_ (toggled_agreementSum_succ idle seed byteAt k).symm
  have flip : ∀ l : Bit, l ^^^ BitVec.ofNat 1 1 = ~~~l ∧ l ^^^ BitVec.ofNat 1 0 = l := by decide
  rw [agreement, Nat.add_sub_cancel]
  split
  · exact (flip _).1
  · exact (flip _).2

/-- The receiver, once it holds bit `k`, reads the levels of the bits left. -/
theorem receive_bitLevels {k n : Nat} (hk : k + n = m) :
    receive (sentBit seed byteAt k) (bitLevels idle seed byteAt m (k + 1) n) =
      (List.range' (k + 1) n).map (receivedBit idle seed byteAt m) := by
  induction n generalizing k with
  | zero => rfl
  | succ n ih =>
    have head : receive (sentBit seed byteAt k) (bitLevels idle seed byteAt m (k + 1) (n + 1)) =
        receivedBit idle seed byteAt m (k + 1) ::
          receive (receivedBit idle seed byteAt m (k + 1)) (bitLevels idle seed byteAt m (k + 2) n) := rfl
    rw [head, List.range'_succ, List.map_cons]
    cases n with
    | zero => rfl
    | succ n => rw [receivedBit_of_inside idle seed byteAt m (by omega), ih (by omega)]

end

theorem State.PacketStart.receive_waveform {byteAt : Nat → Byte} {s : State} (hs : s.PacketStart)
    (bytes : ∀ j, j < s.length → cell s j = some (byteAt j)) :
    receive (seedLevel s.config) (Machine.waveform (14 * s.length) s) = (List.range' 1 (7 * s.length)).map
      (receivedBit (idleLevel s.config) (seedLevel s.config) byteAt (7 * s.length)) := by
  rw [hs.waveform_whole bytes]
  exact receive_bitLevels _ _ byteAt _ (Nat.zero_add _)

/-- Settles O50: every bit before the last follows the toggle rule, the last one exactly where the rule gives the idle
level. -/
theorem receiverRecoversAllButPerhapsTheLastBit : Obligations.ReceiverRecoversAllButPerhapsTheLastBit := by
  intro s byteAt hs bytes
  have hpos := hs.nonempty
  rw [hs.receive_waveform bytes]
  have bit : ∀ k, k < 7 * s.length → ((List.range' 1 (7 * s.length)).map
      (receivedBit (idleLevel s.config) (seedLevel s.config) byteAt (7 * s.length)))[k]? =
        some (receivedBit (idleLevel s.config) (seedLevel s.config) byteAt (7 * s.length) (k + 1)) := by
    intro k hk
    simp [hk, Nat.add_comm 1]
  refine ⟨by simp, fun k hlow hinside => ?_, ?_⟩
  · obtain ⟨k, rfl⟩ := Nat.exists_eq_add_of_le' hlow
    rw [Nat.add_sub_cancel, bit k (by omega), receivedBit_of_inside _ _ byteAt _ hinside.ne]
  · rw [bit _ (by omega), Nat.sub_add_cancel (by omega), Option.some_inj, receivedBit_eq_sentBit_iff, dataEdgeLevel,
      if_pos rfl]

end Sys2Proof.Machine

/-! ## Refused transactions and whose operations run (60_exceptions R173, R184) -/

namespace Sys2Proof.Machine

open Sys2Proof

variable {s t : State}

theorem fetch_of_undecodable {issue : Issue} {rest : List Issue} {reason : RefusalReason}
    (hf : s.faultRecord = none) (hp : s.pending = issue :: rest) (hd : decode issue.bytes = .error reason) :
    fetch s = .refused reason rest := by
  simp [fetch, hp, hf, hd]

theorem fetch_of_wrongAgent {issue : Issue} {rest : List Issue} {i : Instr} {n : Nat} (hf : s.faultRecord = none)
    (hp : s.pending = issue :: rest) (hd : decode issue.bytes = .ok (i, n)) (ha : issue.agent ≠ issuer i) :
    fetch s = .refused .wrongAgent (pendingAfter issue n rest) := by
  simp [fetch, hp, hf, hd, ha]

/-- Where no mark is set, a step that refuses sets it with its reason and writes no field of the block. -/
theorem step_of_fetch_refused {reason : RefusalReason} {left : List Issue} (hf : s.faultRecord = none)
    (hm : s.refusalMark = none) (h : fetch s = .refused reason left) :
    ∃ t, step s = .next t ∧ SameBlock s t ∧ t.refusalMark = some reason ∧ t.faultRecord = none :=
  ⟨refuse reason { s with pending := left }, by rw [step, h],
    (sameBlock_setPending left s).trans (sameBlock_refuse reason _), by simp [hm], hf⟩

/-- Settles O7: bytes that do not decode and another agent's operation are the two refusals of a fetch. -/
theorem refusedTransactionOnlySetsTheMark : Obligations.RefusedTransactionOnlySetsTheMark := by
  rintro s issue rest reason hf hm hp (hd | ⟨rfl, i, n, hd, ha⟩)
  · exact step_of_fetch_refused hf hm (fetch_of_undecodable hf hp hd)
  · exact step_of_fetch_refused hf hm (fetch_of_wrongAgent hf hp hd ha)

/-- R184's table of what each agent may issue. -/
theorem eq_issuer_iff (agent : Agent) (i : Instr) : agent = issuer i ↔
    (agent = .producer ∧ ((∃ data, i = .enqueue data) ∨ i = .status) ∨
      agent = .tickSource ∧ i = .tick ∨ agent = .platform ∧ i = .reset) := by
  cases i <;> simp [issuer]

/-- Settles O8: the table names each operation's issuer; what another agent issues decodes and is refused (R76). -/
theorem agentIssuesOnlyItsOperations : Obligations.AgentIssuesOnlyItsOperations := by
  intro s agent i hi hf hm hp
  rw [← eq_issuer_iff]
  constructor
  · rintro rfl
    rw [step, fetch_of_wellIssued hf hi hp]
  · intro ha
    obtain ⟨t, hstep, same, hmark, -⟩ :=
      step_of_fetch_refused hf hm (fetch_of_wrongAgent hf hp (decode_encode hi) ha)
    exact ⟨t, hstep, same, hmark⟩

/-- Settles O10: a refusal keeps a mark already set, and no operation writes it. -/
theorem stepKeepsTheRefusalMark : Obligations.StepKeepsTheRefusalMark := by
  intro s t reason h hm
  obtain ⟨-, rfl⟩ | ⟨-, later, rest, rfl⟩ | ⟨-, i, rest, hexec⟩ := step_cases h
  · exact hm
  · simp [hm]
  · exact (exec_keeps_refusalMark hexec).trans hm

end Sys2Proof.Machine

/-! ## What records a fault, and what a recorded fault leaves (60_exceptions R171, R172, R175, R176) -/

namespace Sys2Proof.Machine

open Sys2Proof

section
variable {s t : State} {i : Instr} {r : FaultRecord}

/-- A read fails out of bounds, or at an unwritten cell within the buffer (20_memory R52). -/
theorem memRead_eq_error_iff {a : Nat} : memRead s a = .error r ↔
    (s.config.capacity ≤ a ∧ r = ⟨.bufOob, a⟩) ∨
    (a < s.config.capacity ∧ cell s a = none ∧ r = ⟨.bufUnwritten, a⟩) := by
  obtain ⟨hcap, hread⟩ | ⟨hcap, hc, hread⟩ | ⟨hcap, b, hc, hread⟩ := memRead_cases s a
  · simp [hread, hcap, hcap.not_gt, eq_comm]
  · simp [hread, hc, hcap, hcap.not_ge, eq_comm]
  · simp [hread, hc, hcap.not_ge]

/-- A DataEdge whose read fails records the fault and answers nothing. -/
theorem execTick_of_read_error (hf : s.faultRecord = none) (ha : s.tickEn = 1#1) (hp : s.halfPhase = .dataEdge)
    (hread : memRead s s.byteIndex = .error r) : execTick s = .next (respond none (raise r s)) := by
  simp only [execTick_of_enabled hf ha, encoderStep, hp, dataEdgeStep, hread]

/-- The one way to record a fault: the failing read of a DataEdge TICK. -/
theorem exec_records_fault (h : exec i s = .next t) (ht : t.faultRecord = some r) :
    i = .tick ∧ s.tickEn = 1#1 ∧ s.halfPhase = .dataEdge ∧ memRead s s.byteIndex = .error r ∧
      t = respond none (raise r s) := by
  have changed : t.faultRecord ≠ s.faultRecord := by simp [exec_unfaulted h, ht]
  cases i with
  | enqueue data =>
    obtain ⟨-, answer, rfl⟩ | ⟨-, -, answer, rfl⟩ := execEnqueue_rejected_or_accepted h <;> exact absurd rfl changed
  | status =>
    obtain ⟨-, rfl⟩ := execStatus_cases h
    exact absurd rfl changed
  | tick =>
    obtain ⟨-, ha, ⟨-, rfl⟩ | ⟨hp, q, hread, rfl⟩ | ⟨-, b, -, -, rfl⟩ | ⟨-, b, -, -, rfl⟩⟩ := execTick_cases h
    · exact absurd rfl changed
    · obtain rfl : q = r := Option.some.inj ht
      exact ⟨rfl, ha, hp, hread, rfl⟩
    · exact absurd (advanced_faultRecord b s) changed
    · exact absurd (completed_faultRecord b s) changed
  | reset =>
    obtain ⟨-, rfl⟩ := execReset_cases h
    exact absurd rfl changed

theorem unfaulted_of_ne_tick (hi : i ≠ .tick) (h : exec i s = .next t) : t.faultRecord = none :=
  Option.eq_none_iff_forall_ne_some.mpr fun _ ht => hi (exec_records_fault h ht).1

/-- A faulted block has one step only: to wait with nothing pending. -/
theorem step_of_faulted (hf : s.faultRecord = some r) (h : step s = .next t) : s.pending = [] ∧ t = s := by
  obtain wait | ⟨hnone, -⟩ | ⟨hnone, -⟩ := step_cases h
  · exact wait
  all_goals exact nomatch hf.symm.trans hnone

theorem sameBlock_recorded (r : FaultRecord) (s : State) : SameBlock s (respond none (raise r s)) :=
  (sameBlock_raise r s).trans (sameBlock_respond none _)

end

/-- Settles O26: a failing read names its cell, and its code is that of the test it fails. -/
theorem onlyDataEdgeTicksFault : Obligations.OnlyDataEdgeTicksFault := by
  intro s t i r h ht
  obtain ⟨hi, -, hp, hread, -⟩ := exec_records_fault h ht
  refine ⟨hi, hp, ?_⟩
  obtain ⟨hcap, rfl⟩ | ⟨hcap, hc, rfl⟩ := memRead_eq_error_iff.mp hread
  · simp [hcap, hcap.not_gt, faultNumber]
  · simp [hcap, hcap.not_ge, hc, faultNumber]

/-- Settles O9: a fault is raised with no other effect, and every operation and every taken transaction asks for an
unfaulted block. -/
theorem recordedFaultStopsTheBlock : Obligations.RecordedFaultStopsTheBlock := by
  refine ⟨fun s t i r h ht => ?_, fun s r hf => ⟨fun i t h => ?_, fun hp t h => ?_, fun t h => ?_, fun hfinal => ?_⟩⟩
  · obtain ⟨-, -, -, -, rfl⟩ := exec_records_fault h ht
    exact sameBlock_recorded r s
  · exact nomatch hf.symm.trans (exec_unfaulted h)
  · exact hp (step_of_faulted hf h).1
  · obtain ⟨-, rfl⟩ := step_of_faulted hf h
    exact hf
  · exact nomatch hf.symm.trans hfinal.1

/-- Settles O24: the bounds test fails, and R31 keeps the cursor below a length of at most `C + 1`. -/
theorem dataEdgeReadPastTheBufferFaults : Obligations.DataEdgeReadPastTheBufferFaults := by
  intro s hf ha hp hcap
  have read := memRead_eq_error_iff.mpr (.inl ⟨hcap, rfl⟩)
  refine ⟨⟨_, execTick_of_read_error hf ha hp read, sameBlock_recorded _ s, rfl⟩, fun hs => ?_⟩
  have inside := hs.flight_byte_index (hs.busy_is_armed.trans ha)
  have range := hs.length_range
  cases htrailing : s.config.trailingByte with
  | true =>
    simp only [recordedLength, htrailing, if_true] at range
    exact ⟨rfl, by omega⟩
  | false =>
    simp only [recordedLength, htrailing, Bool.false_eq_true, if_false] at range
    omega

/-- A cell that nothing lists holds what `BUF_RESET` says. -/
theorem cell_of_unlisted {s : State} {a : Nat} (h : ∀ e ∈ s.buf, e.1 ≠ a) : cell s a = unlistedCell s.config :=
  Memory.read_absent _ s.buf a h

theorem dataBit_zero (k : BitVec 3) : dataBit 0x00#8 k = 0#1 := by
  revert k
  decide

/-- Settles O25: the cell reads as an unlisted one, UNWRITTEN or 0x00, whose bits are all 0. -/
theorem dataEdgeReadOfUnwrittenCell : Obligations.DataEdgeReadOfUnwrittenCell := by
  intro s hf ha hp hcap hunlisted
  have content := cell_of_unlisted hunlisted
  refine ⟨fun hreset => ?_, fun hreset => ?_⟩ <;> rw [unlistedCell, hreset] at content
  · have read := memRead_eq_error_iff.mpr (.inr ⟨hcap, content, rfl⟩)
    exact ⟨_, execTick_of_read_error hf ha hp read, sameBlock_recorded _ s, rfl⟩
  · refine ⟨_, execTick_of_dataEdge hf ha hp hcap content, ?_, fun hn => ?_⟩
    · split <;> simpa using hf
    · simp [if_neg hn, dataBit_zero, eq_comm (a := 0#1)]

/-- Settles O43: the cursor is inside the packet, every cell ENQUEUE copied reads, so the failing one is the last of a
packet with a trailing byte. -/
theorem onlyTheTrailingByteFaults : Obligations.OnlyTheTrailingByteFaults := by
  intro s t i r hs hpayload h ht
  obtain ⟨-, ha, -, hread, -⟩ := exec_records_fault h ht
  have hb : s.busy = 1#1 := hs.busy_is_armed.trans ha
  have inside := hs.flight_byte_index hb
  have range := hs.length_range
  have unreadable : ¬ (s.byteIndex < s.config.capacity ∧ cell s s.byteIndex ≠ none) := by
    rintro ⟨hcap, hwritten⟩
    obtain ⟨hout, -⟩ | ⟨-, hnone, -⟩ := memRead_eq_error_iff.mp hread
    · omega
    · exact hwritten hnone
  have notCopied := mt (hpayload hb s.byteIndex) unreadable
  cases htrailing : s.config.trailingByte with
  | false =>
    simp only [htrailing, Bool.false_eq_true, if_false] at notCopied
    omega
  | true =>
    simp only [recordedLength, htrailing, if_true] at notCopied range
    have last : s.byteIndex + 1 = s.length := by omega
    obtain ⟨hcap, rfl⟩ | ⟨hcap, -, rfl⟩ := memRead_eq_error_iff.mp hread
    · exact ⟨rfl, last, iff_of_true rfl (by omega)⟩
    · exact ⟨rfl, last, iff_of_false (by simp) (by omega)⟩

end Sys2Proof.Machine

/-! ## Steps and executions in which only some agents issue (20_memory R56) -/

namespace Sys2Proof.Machine

open Sys2Proof

/-- Every transaction pending was issued by one of the agents `A`. -/
def State.PendingBy (A : Agent → Prop) (s : State) : Prop := ∀ issue ∈ s.pending, A issue.agent

section
variable {A : Agent → Prop} {P : State → Prop} {s t : State}

theorem State.PendingBy.issue {new : List Issue} (hs : s.PendingBy A) (hnew : ∀ issue ∈ new, A issue.agent) :
    (s.issue new).PendingBy A := fun x hx =>
  (List.mem_append.mp hx).elim (hs x) (hnew x)

/-- The ways a step can go whose pending transactions are those of `A`: only an operation of `A`'s runs, and what is
left is theirs. -/
theorem State.PendingBy.step_cases (hs : s.PendingBy A) (h : step s = .next t) :
    t = s ∨ ∃ left, (∀ x ∈ left, A x.agent) ∧
      ((∃ reason, t = refuse reason { s with pending := left }) ∨
       (∃ i, A (issuer i) ∧ exec i { s with pending := left } = .next t)) := by
  have left_by : ∀ {issue rest} n, s.pending = issue :: rest → ∀ x ∈ pendingAfter issue n rest, A x.agent := by
    intro issue rest n hp x hx
    rcases agent_of_mem_pendingAfter hx with ha | hrest
    · rw [ha]
      exact hs issue (by simp [hp])
    · exact hs x (by simp [hp, hrest])
  unfold step at h
  rcases fetch_cases s with
      ⟨_, hf⟩ | ⟨_, r, _, hf⟩ | ⟨_, issue, rest, hp, ⟨reason, _, hf⟩ | ⟨i, n, _, ⟨_, hf⟩ | ⟨ha, hf⟩⟩⟩ <;>
    rw [hf] at h
  · exact .inl (Host.Outcome.next.inj h).symm
  · exact nomatch h
  · exact .inr ⟨rest, fun x hx => hs x (by simp [hp, hx]), .inl ⟨reason, (Host.Outcome.next.inj h).symm⟩⟩
  · exact .inr ⟨_, left_by n hp, .inl ⟨.wrongAgent, (Host.Outcome.next.inj h).symm⟩⟩
  · exact .inr ⟨_, left_by n hp, .inr ⟨i, ha ▸ hs issue (by simp [hp]), h⟩⟩

/-- What depends on the block and the fault record alone and is kept by the operations of `A`'s is kept by every step
whose pending transactions are those of `A`. -/
theorem State.PendingBy.step_keeps
    (block : ∀ s t, SameBlock s t → t.faultRecord = s.faultRecord → P s → P t)
    (operation : ∀ i s t, A (issuer i) → P s → exec i s = .next t → P t)
    (hby : s.PendingBy A) (hs : P s) (h : step s = .next t) : P t ∧ t.PendingBy A := by
  obtain rfl | ⟨left, hleft, ⟨reason, rfl⟩ | ⟨i, hi, hexec⟩⟩ := hby.step_cases h
  · exact ⟨hs, hby⟩
  · exact ⟨block s _ ((sameBlock_setPending left s).trans (sameBlock_refuse reason _)) rfl hs, hleft⟩
  · refine ⟨operation i _ t hi (block s _ (sameBlock_setPending left s) rfl hs) hexec, ?_⟩
    rw [State.PendingBy, exec_keeps_pending hexec]
    exact hleft

/-- The same along an execution in which, from step `k` on, only `A` issue. -/
theorem IsExecution.always_of_agents {issued : Schedule} {run : Nat → State} (h : IsExecution issued run)
    (block : ∀ s t, SameBlock s t → t.faultRecord = s.faultRecord → P s → P t)
    (operation : ∀ i s t, A (issuer i) → P s → exec i s = .next t → P t) {k : Nat}
    (later : ∀ j, k ≤ j → ∀ issue ∈ issued j, A issue.agent) (hby : (run k).PendingBy A) (start : P (run k)) (j : Nat)
    (hj : k ≤ j) : P (run j) ∧ (run j).PendingBy A := by
  induction j, hj using Nat.le_induction with
  | base => exact ⟨start, hby⟩
  | succ j hj ih =>
    obtain ⟨hs, hpending⟩ := ih
    exact (hpending.issue (later j hj)).step_keeps block operation (block _ _ (sameBlock_issue _ _) rfl hs) (h j)

/-- The operation carried out at a step is one of `A`'s when all pending and new transactions are, and it is enabled. -/
theorem IsExecution.operation_enabled {issued : Schedule} {run : Nat → State} (h : IsExecution issued run) {k : Nat}
    {i : Instr} (hby : (run k).PendingBy A) (hnew : ∀ issue ∈ issued k, A issue.agent)
    (hop : operationAt issued run k = some i) :
    A (issuer i) ∧ ∃ left, exec i { run k with pending := left } = .next (run (k + 1)) := by
  obtain ⟨hnone, -⟩ | ⟨hnone, -⟩ | ⟨j, hj, -, issue, rest, left, hp, ha, -, hexec⟩ := h.step_cases k
  · exact nomatch hop.symm.trans hnone
  · exact nomatch hop.symm.trans hnone
  · obtain rfl : j = i := Option.some.inj (hj.symm.trans hop)
    exact ⟨ha ▸ hby.issue hnew issue (by simp [hp]), left, hexec⟩

end

end Sys2Proof.Machine

/-! ## The hang of a stalled tick source (60_exceptions R178) -/

namespace Sys2Proof.Machine

open Sys2Proof

section
variable {s t : State} {i : Instr}

theorem ne_tick_and_ne_reset_of_producer (hi : issuer i = .producer) : i ≠ .tick ∧ i ≠ .reset := by
  constructor <;> rintro rfl <;> exact nomatch hi

/-- Of an unfaulted block every operation but TICK is enabled. -/
theorem exists_exec_of_ne_tick (hf : s.faultRecord = none) (hi : i ≠ .tick) :
    ∃ t, exec i s = .next t := by
  cases i with
  | enqueue data => exact exists_unlessFaulted_next_iff.mpr hf
  | status => exact exists_unlessFaulted_next_iff.mpr hf
  | tick => exact absurd rfl hi
  | reset => exact exists_unlessFaulted_next_iff.mpr hf

/-- While busy, operations that are no TICK and no RESET run one after another and only answer. -/
theorem runOps_sameBlock_of_busy {ops : List Instr} (hf : s.faultRecord = none) (hb : s.busy = 1#1)
    (hops : ∀ i ∈ ops, i ≠ .tick ∧ i ≠ .reset) :
    ∃ t, runOps ops s = .next t ∧ SameBlock s t ∧ t.faultRecord = none := by
  induction ops generalizing s with
  | nil => exact ⟨s, rfl, by constructor <;> rfl, hf⟩
  | cons i is ih =>
    obtain ⟨htick, hreset⟩ := hops i List.mem_cons_self
    obtain ⟨u, hexec⟩ := exists_exec_of_ne_tick hf htick
    have same := exec_sameBlock_of_busy hb htick hreset hexec
    obtain ⟨t, hrun, rest, ht⟩ := ih (unfaulted_of_ne_tick htick hexec) (same.busy.trans hb)
      fun j hj => hops j (List.mem_cons_of_mem i hj)
    exact ⟨t, by simpa only [runOps, hexec] using hrun, same.trans rest, ht⟩

/-- Armed and unfaulted: what a hung block keeps under the producer's operations. -/
structure State.ArmedUnfaulted (s : State) : Prop where
  unfaulted : s.faultRecord = none
  armed : s.tickEn = 1#1

theorem State.ArmedUnfaulted.of_sameBlock (hs : s.ArmedUnfaulted) (h : SameBlock s t)
    (hf : t.faultRecord = s.faultRecord) : t.ArmedUnfaulted :=
  ⟨hf.trans hs.unfaulted, h.tickEn.trans hs.armed⟩

theorem State.ArmedUnfaulted.exec_producer (hs : s.ArmedUnfaulted) (hi : issuer i = .producer)
    (h : exec i s = .next t) : t.ArmedUnfaulted := by
  obtain ⟨htick, hreset⟩ := ne_tick_and_ne_reset_of_producer hi
  exact ⟨unfaulted_of_ne_tick htick h, exec_keeps_armed (by simp [EndsPacket, htick, hreset]) h hs.armed⟩

/-- Under the invariants an armed block is busy, and answers BUSY to every legal count (40_transmit_buffer R103). -/
theorem State.ArmedUnfaulted.enqueue_answers_busy (hs : s.ArmedUnfaulted) (hinv : s.Inv) (data : List Byte)
    (hpos : 1 ≤ data.length) (hcap : data.length ≤ s.config.capacity) :
    exec (.enqueue data) s = .next { s with response := some 0b00000001#8 } :=
  (enqueueWhileBusyAnswersBusy s data hs.unfaulted (hinv.busy_is_armed.trans hs.armed)).2 hpos hcap

theorem State.Hung.pendingBy_producer (hs : s.Hung) (hplatform : ∀ issue ∈ s.pending, issue.agent ≠ .platform) :
    s.PendingBy (· = .producer) := by
  obtain ⟨-, -, htick⟩ := hs
  intro issue hissue
  cases ha : issue.agent with
  | producer => rfl
  | tickSource => exact absurd ha (htick issue hissue)
  | platform => exact absurd ha (hplatform issue hissue)

end

/-- Settles O35: the operations leave the block as it is, and a block as it was answers as before. -/
theorem stalledTickSourceHangsBusy : Obligations.StalledTickSourceHangsBusy := by
  intro s ops hs hf hb hops
  obtain ⟨t, hrun, same, ht⟩ := runOps_sameBlock_of_busy hf hb hops
  have armed : t.tickEn = 1#1 := same.tickEn.trans (hs.busy_is_armed.symm.trans hb)
  refine ⟨t, hrun, same.busy.trans hb, armed, ?_⟩
  rw [← same.config]
  exact State.ArmedUnfaulted.enqueue_answers_busy ⟨ht, armed⟩ (same.inv hs)

/-- Settles O36: all that is pending is the producer's, whose operations keep the block armed and unfaulted. -/
theorem hungBlockStaysHung : Obligations.HungBlockStaysHung := by
  intro s t new hs hplatform hnew h
  have producers := hs.pendingBy_producer hplatform
  obtain ⟨hf, ha, -⟩ := hs
  obtain ⟨⟨tf, ta⟩, hby⟩ := (producers.issue hnew).step_keeps (P := State.ArmedUnfaulted)
    (fun _ _ same hf hs => hs.of_sameBlock same hf) (fun _ _ _ hi hs he => hs.exec_producer hi he) ⟨hf, ha⟩ h
  exact ⟨⟨tf, ta, fun x hx => by simp [hby x hx]⟩, fun x hx => by simp [hby x hx]⟩

/-- Settles O57: with the producer's transactions alone the block stays armed and unfaulted and keeps the invariants,
and no TICK is among its operations. -/
theorem stalledTickSourceHangsForever : Obligations.StalledTickSourceHangsForever := by
  intro issued run k h hinv hs hplatform hlater
  have producers := hs.pendingBy_producer hplatform
  obtain ⟨hf, ha, -⟩ := hs
  have always := h.always_of_agents (A := (· = .producer)) (P := fun s => s.Inv ∧ s.ArmedUnfaulted)
    (fun _ _ same hf ⟨hinv, hs⟩ => ⟨same.inv hinv, hs.of_sameBlock same hf⟩)
    (fun _ _ _ hi ⟨hinv, hs⟩ he => ⟨exec_keeps_inv hinv he, hs.exec_producer hi he⟩)
    hlater producers ⟨hinv, hf, ha⟩
  refine ⟨fun j hj => ?_, fun j hj => ?_⟩ <;> obtain ⟨⟨jinv, jarmed⟩, jby⟩ := always j hj
  · refine ⟨jarmed.unfaulted, jarmed.armed, fun htick => ?_⟩
    exact nomatch (h.operation_enabled jby (hlater j hj) htick).1
  · exact ⟨jinv.busy_is_armed.trans jarmed.armed, jarmed.enqueue_answers_busy jinv⟩

end Sys2Proof.Machine

/-! ## The end of an execution (60_exceptions R190) -/

namespace Sys2Proof.Machine

open Sys2Proof

theorem not_execTick_of_disarmed {s t : State} (h : s.tickEn = 0#1) : execTick s ≠ .next t := fun htick =>
  absurd (h.symm.trans (exists_execTick_next_iff.mp ⟨t, htick⟩).1) (by decide)

/-- Settles O37: with nothing pending the block waits, TICK asks for an armed source, and R31 says the rest. -/
theorem finalStateRestsAtIdle : Obligations.FinalStateRestsAtIdle := by
  intro s hs hfinal
  obtain ⟨-, -, hb, ha, -⟩ := hfinal
  exact ⟨fun hp => by rw [step, fetch_of_pending_nil hp], fun _ => not_execTick_of_disarmed ha, hs.idle_line hb,
    hs.idle_cursor hb⟩

/-- Disarmed and unfaulted, with the invariants of R31: what a final state keeps while the producer is silent. -/
structure State.Resting (s : State) : Prop where
  inv : s.Inv
  unfaulted : s.faultRecord = none
  disarmed : s.tickEn = 0#1

section
variable {s t : State} {i : Instr}

theorem State.Resting.of_sameBlock (hs : s.Resting) (h : SameBlock s t) (hf : t.faultRecord = s.faultRecord) :
    t.Resting :=
  ⟨h.inv hs.inv, hf.trans hs.unfaulted, h.tickEn.trans hs.disarmed⟩

/-- Of the operations that are not the producer's, a disarmed block has RESET only. -/
theorem eq_reset_of_disarmed (ha : s.tickEn = 0#1) (hi : issuer i ≠ .producer) (h : exec i s = .next t) :
    i = .reset := by
  cases i with
  | enqueue data => exact absurd rfl hi
  | status => exact absurd rfl hi
  | tick => exact absurd h (not_execTick_of_disarmed ha)
  | reset => rfl

theorem State.Resting.exec_not_producer (hs : s.Resting) (hi : issuer i ≠ .producer) (h : exec i s = .next t) :
    t.Resting := by
  obtain rfl := eq_reset_of_disarmed hs.disarmed hi h
  refine ⟨exec_keeps_inv hs.inv h, unfaulted_of_ne_tick (by simp) h, ?_⟩
  obtain ⟨-, rfl⟩ := execReset_cases h
  rfl

end

/-- Settles O59: without the producer a resting block has no operation but RESET, which leaves it resting. -/
theorem endedExecutionStaysIdle : Obligations.EndedExecutionStaysIdle := by
  rintro issued run k h hinv ⟨⟨hf, -, -, ha, hpending⟩, hlater⟩ j hj
  obtain ⟨hs, hby⟩ := h.always_of_agents (A := (· ≠ .producer)) (P := State.Resting)
    (fun _ _ same hf hs => hs.of_sameBlock same hf) (fun _ _ _ hi hs he => hs.exec_not_producer hi he)
    hlater hpending ⟨hinv, hf, ha⟩ j hj
  have idle : (run j).busy = 0#1 := hs.inv.busy_is_armed.trans hs.disarmed
  refine ⟨hs.unfaulted, idle, hs.disarmed, hs.inv.idle_line idle, ?_⟩
  cases hop : operationAt issued run j with
  | none => exact .inl rfl
  | some i =>
    obtain ⟨hi, left, hexec⟩ := h.operation_enabled hby (hlater j hj) hop
    exact .inr (congrArg some (eq_reset_of_disarmed (s := { run j with pending := left }) hs.disarmed hi hexec))

end Sys2Proof.Machine

/-! ## RESET, read forwards, and what its reset values are in each build (70_reset_and_hazards R201, R202) -/

namespace Sys2Proof.Machine

open Sys2Proof

section
variable {s : State} {c : Config}

theorem execReset_of_unfaulted (hf : s.faultRecord = none) :
    execReset s = .next (respond none (resetFields s)) := by
  rw [execReset, unlessFaulted_of_none hf]

theorem levels_of_thomas (h : c.conv = .thomas) : idleLevel c = 0#1 ∧ seedLevel c = 0#1 := by
  simp [idleLevel, seedLevel, h]

theorem levels_of_ieee (h : c.conv = .ieee) : idleLevel c = c.idleIeee ∧ seedLevel c = 1#1 := by
  simp [idleLevel, seedLevel, h]

theorem unlistedCell_of_unwritten (h : c.bufReset = .unwritten) : unlistedCell c = none := by
  rw [unlistedCell, h]

theorem unlistedCell_of_zero (h : c.bufReset = .zero) : unlistedCell c = some 0x00#8 := by
  rw [unlistedCell, h]

/-- With nothing listed every cell holds what `BUF_RESET` says. -/
theorem cell_of_buf_nil (h : s.buf = []) (a : Nat) : cell s a = unlistedCell s.config :=
  cell_of_unlisted (by simp [h])

end

/-- Settles O29: an unfaulted RESET answers `resetFields`, whose levels and cells are those of the build. -/
theorem resetGivesEveryFieldItsResetValue : Obligations.ResetGivesEveryFieldItsResetValue := by
  intro s hf
  have content : ∀ a, cell (respond none (resetFields s)) a = unlistedCell s.config := cell_of_buf_nil rfl
  exact ⟨_, execReset_of_unfaulted hf, rfl, rfl, rfl, rfl, rfl, rfl, levels_of_thomas, levels_of_ieee,
    fun hunwritten a => (content a).trans (unlistedCell_of_unwritten hunwritten),
    fun hzero a => (content a).trans (unlistedCell_of_zero hzero), hf, rfl, rfl, rfl⟩

/-- Settles O30: the STATUS after it answers the word of a block that RESET left disarmed, not busy and at its idle
level. -/
theorem resetDuringPacketLooksLikeCompletion : Obligations.ResetDuringPacketLooksLikeCompletion := by
  intro s hf _
  exact ⟨_, _, _, execReset_of_unfaulted hf, execStatus_of_unfaulted (s := respond none (resetFields s)) hf, rfl,
    statusWord_busy _, statusWord_tickEn _, rfl⟩

end Sys2Proof.Machine
